-- ==== Sys2Proof/Word.lean ====
section
/-! DEFINITION. The widths of NSER's values (00_scope.md R6, R8). -/

namespace Sys2Proof

/-- One nibble, `DATA_WIDTH` = 4 bits, bit 0 the least significant (R6, R8). -/
abbrev Nibble := BitVec 4

/-- The value of a byte transfer, `VALUE_WIDTH` = 8 bits (R6). -/
abbrev Byte := BitVec 8

/-- A request word, `REQ_WIDTH` = 16 bits (R6, R70). -/
abbrev ReqWord := BitVec 16

/-- The count of a WAIT, `WAIT_COUNT_WIDTH` = 14 bits (R6, R74). -/
abbrev WaitCount := BitVec 14

/-- A bus-level byte transfer `(RS, VALUE)`: bit 8 is RS and bits 7..0 the byte (the `payload9` rows of the opcode
table; R82). -/
abbrev Payload9 := BitVec 9

end Sys2Proof
end

