-- ==== Sys2Proof/Config.lean ====
section
/-! DEFINITION. The parameters of 00_scope.md R6 and the free values of the model. -/

namespace Sys2Proof

/-- The timing parameters of R6, in ns, which the model takes as arguments: they stand in `State.cfg`, and no step changes
them. Each is a minimum (R7). Log entry 2. -/
structure Config where
  /-- `T_SU_MIN`: E low before E rises. -/
  tSuMin : Nat
  /-- `T_PW_MIN`: E-high pulse width. -/
  tPwMin : Nat
  /-- `T_SETTLE_MIN`: E-low settle after each strobe. -/
  tSettleMin : Nat
  /-- `WAIT_UNIT`: the unit of WAIT's count. -/
  waitUnit : Nat
  /-- `T_POWERUP_MIN`: host wait after power-up before the first transfer (a duty of the host, R211). -/
  tPowerupMin : Nat
  /-- `T_INIT_STEP_MIN`: host wait after each of the initialization steps 3, 5, 6, 7, 8, 9 (a duty of the host, R210). -/
  tInitStepMin : Nat
  /-- `T_HOME_EXTRA_MIN`: host wait after the Return-Home of initialization step 10 (a duty of the host, R210). -/
  tHomeExtraMin : Nat
deriving DecidableEq, Repr

/-- The source's values (R6, normative by decision D23). Log entry 25. -/
def Config.default : Config where
  tSuMin := 1000
  tPwMin := 40000
  tSettleMin := 40000000
  waitUnit := 1000000
  tPowerupMin := 500000000
  tInitStepMin := 10000000
  tHomeExtraMin := 2000000

/-- One move of the transition system: what happens next. Which move it is, is the free choice of R106 and R185 (time and
phase ends), R135 (host idle gaps), R193 (the host's requests and resets). Log entry 1. -/
inductive Move where
  /-- `Advance(δ)` with δ = `extra` + 1 ns, so that δ ≥ 1 (R106). -/
  | pass (extra : Nat)
  /-- NSER takes the zero-time step it is enabled to take: in IDLE it accepts a presented request (R31), in another phase
  whose minimum has passed it ends the phase (R103, R104, R105, R132). Where none is enabled, nothing happens. -/
  | act
  /-- The host presents the next word of its stream, unless one is still presented (R193). -/
  | present
  /-- The host asserts `rst` (R32, R193). -/
  | assertReset
deriving DecidableEq, Repr, Inhabited

/-- FREE VALUE: the move taken once the schedule in State is used up, for each value of the counter `draws`. It has no body:
nothing can be proved about which move it is (R7: every duration, every order that the rules enable). Log entry 1. -/
opaque Config.freeMove : Nat → Move

/-- OPEN parameter `CLK_PERIOD_NS` (R6, decision D1, I10): the clock period of a clocked implementation. The model is
unclocked and no rule depends on it. Log entry 17. -/
opaque Config.clkPeriodNs : Nat

/-- OPEN parameter `NSER_PORT_ADDR` (R59, decision D27, I11): where a host's address map holds the request port. No rule
depends on it. Log entry 17. -/
opaque Config.nserPortAddr : Nat

/-- Decision D1: the least number of cycles of period `clk` that a clocked implementation counts for a minimum of `t` ns,
`ceil(t / clk)`. -/
def Config.cycles (clk t : Nat) : Nat := (t + clk - 1) / clk

end Sys2Proof
end

