-- ==== Sys2Proof/Machine/Operands.lean ====
section
/-! DEFINITION. Operand assembly (30_encoding.md R75) and the payload bytes (42_payload_commands.md R150 to R158). -/

namespace Sys2Proof.Machine

/-- High nibble of a byte, `VALUE >> 4` (R52, R75). -/
def hiNibble (value : Byte) : Nibble := (value >>> 4).setWidth 4

/-- Low nibble of a byte, `VALUE & 0xF` (R52, R75). -/
def loNibble (value : Byte) : Nibble := (value &&& 0x0F).setWidth 4

/-- WAIT's duration in ns, `zext(MS) * WAIT_UNIT` (R75). -/
def waitDuration (c : Config) (ms : WaitCount) : Nat := ms.toNat * c.waitUnit

/-- A one-bit option as a byte. -/
def optionBit (b : Bool) : Byte := if b then 1 else 0

/-- Clear Display (R150). -/
def clearByte : Byte := 0x01

/-- Return Home (R151). -/
def homeByte : Byte := 0x02

/-- Entry Mode, `0x04 | id << 1 | s` (R152). -/
def entryByte (id sh : Bool) : Byte := 0x04 ||| (optionBit id <<< 1) ||| optionBit sh

/-- Display Control, `0x08 | d << 2 | c << 1 | b` (R153). -/
def dispctlByte (d c b : Bool) : Byte := 0x08 ||| (optionBit d <<< 2) ||| (optionBit c <<< 1) ||| optionBit b

/-- Cursor/Display Shift, `0x10 | sc << 3 | rl << 2` (R154). -/
def shiftByte (sc rl : Bool) : Byte := 0x10 ||| (optionBit sc <<< 3) ||| (optionBit rl <<< 2)

/-- Function Set, `0x20 | dl << 4 | n << 3 | f << 2` (R155). -/
def funcsetByte (dl n f : Bool) : Byte := 0x20 ||| (optionBit dl <<< 4) ||| (optionBit n <<< 3) ||| (optionBit f <<< 2)

/-- Set-CGRAM-Address, `0x40 | a` (R156). -/
def setcgramByte (a : BitVec 6) : Byte := 0x40 ||| a.setWidth 8

/-- Set-DDRAM-Address, `0x80 | a` (R157). -/
def setddramByte (a : BitVec 7) : Byte := 0x80 ||| a.setWidth 8

/-- The initialization nibble of step 3 (R83). -/
def initReset8Nibble : Nibble := 0x3

/-- The initialization nibble of step 4 (R83). -/
def initSwitch4Nibble : Nibble := 0x2

end Sys2Proof.Machine
end

