-- ==== Sys2Proof/Syntax.lean ====
section
/-! DEFINITION. The instructions: one constructor per row of spec/opcode_table.json. -/

namespace Sys2Proof

/-- The requests of NSER, one constructor per row of the opcode table. The first four are NSER's four requests
(30_encoding.md R70). The payload rows and the initialization nibbles are names for particular SEND_BYTE and SEND_NIBBLE
words (R80, R83): NSER does not tell them apart, and each acts as the request that carries it (log entry 9). A one-bit field
is `true` for 1. -/
inductive Instr where
  /-- SEND_BYTE (`SEND.CMD` for RS = 0, `SEND.DATA` for RS = 1): R71, R101. -/
  | sendByte (rs : Bool) (value : Byte)
  /-- SEND_NIBBLE (`SEND4`): R72, R100. -/
  | sendNibble (nib : Nibble)
  /-- SET_CTRL (`SETCTL`): R73, R130. -/
  | setCtrl (rs : Bool)
  /-- WAIT: R74, R131. -/
  | wait (ms : WaitCount)
  /-- CLEAR, Clear Display: R150. -/
  | clear
  /-- HOME, Return Home: R151. -/
  | home
  /-- ENTRY, Entry Mode, with increment `id` and shift-on `sh`: R152. -/
  | entry (id sh : Bool)
  /-- DISPCTL, Display Control, with display-on, cursor-on and blink-on: R153. -/
  | dispctl (d c b : Bool)
  /-- SHIFT, Cursor/Display Shift, with shift-display `sc` and right `rl`: R154. -/
  | shift (sc rl : Bool)
  /-- FUNCSET, Function Set, with 8-bit `dl`, two-row `n` and 5×10 font `f`: R155. -/
  | funcset (dl n f : Bool)
  /-- SETCGRAM, Set-CGRAM-Address: R156. -/
  | setcgram (a : BitVec 6)
  /-- SETDDRAM, Set-DDRAM-Address: R157. -/
  | setddram (a : BitVec 7)
  /-- PUTC, data write: R158. -/
  | putc (v : Byte)
  /-- The initialization nibble 0x3, "8-bit mode" legacy reset: R83. -/
  | initReset8
  /-- The initialization nibble 0x2, switch to 4-bit mode: R83. -/
  | initSwitch4
deriving DecidableEq, Repr

end Sys2Proof
end

