-- ==== Sys2Proof/WellFormed.lean ====
section
/-! DEFINITION. Well-formed instructions: those that are named as the opcode table names their words. Field widths are in
the types, so the one thing left to check is the name. -/

namespace Sys2Proof

/-- Mask and match of the `payload9` rows of the opcode table, in its order (R150 to R158). -/
def payloadRows : List (Payload9 × Payload9) :=
  [(0x1FF, 0x001), (0x1FF, 0x002), (0x1FC, 0x004), (0x1F8, 0x008), (0x1F3, 0x010), (0x1E3, 0x020), (0x1C0, 0x040),
   (0x180, 0x080), (0x100, 0x100)]

/-- Some `payload9` row of the opcode table takes the byte transfer `x`. -/
def isPayloadRow (x : Payload9) : Bool := payloadRows.any fun row => x &&& row.1 == row.2

/-- Some `nibble` row of the opcode table takes the nibble `n` (R83: 0x3 and 0x2). -/
def isNibbleRow (n : Nibble) : Bool := n == 0x3 || n == 0x2

/-- An instruction is well formed when its word has no more specific row of the opcode table: a SEND_BYTE whose byte a payload
row takes is written by that row's name, a SEND_NIBBLE of an initialization nibble by the nibble's (log entry 9). Every other
constructor is well formed whatever its fields. -/
def Instr.wellFormed : Instr → Bool
  | .sendByte rs value => !isPayloadRow (BitVec.ofBool rs ++ value)
  | .sendNibble nib => !isNibbleRow nib
  | .setCtrl _ => true
  | .wait _ => true
  | .clear => true
  | .home => true
  | .entry _ _ => true
  | .dispctl _ _ _ => true
  | .shift _ _ => true
  | .funcset _ _ _ => true
  | .setcgram _ => true
  | .setddram _ => true
  | .putc _ => true
  | .initReset8 => true
  | .initSwitch4 => true

end Sys2Proof
end

