-- ==== Sys2Proof/Decode.lean ====
section
/-! DEFINITION. The decoder of request words (30_encoding.md R70 to R78, R82, R83), the encoder, and the reading of a word
numbered as the opcode table numbers it. -/

namespace Sys2Proof

/-- What the decoder answers: `Request ⊕ Illegal` of R76. -/
inductive Decoded where
  /-- The word is the request. -/
  | request (i : Instr)
  /-- IllegalRequest: no request row of the opcode table takes the word `w` (R77). -/
  | illegal (w : ReqWord)
deriving DecidableEq, Repr

/-- R76: the four requests and nothing more. `w[9]` (RW) takes part in the zero test of `w[13:9]`. -/
def decodeCore (w : ReqWord) : Decoded :=
  if w.extractLsb' 14 2 = 0b00 then
    if w.extractLsb' 9 5 = 0 then .request (.sendByte (w.getLsbD 8) (w.extractLsb' 0 8)) else .illegal w
  else if w.extractLsb' 14 2 = 0b01 then
    if w.extractLsb' 4 10 = 0 then .request (.sendNibble (w.extractLsb' 0 4)) else .illegal w
  else if w.extractLsb' 14 2 = 0b10 then
    if w.extractLsb' 9 5 = 0 ∧ w.extractLsb' 0 8 = 0 then .request (.setCtrl (w.getLsbD 8)) else .illegal w
  else .request (.wait (w.extractLsb' 0 14))

/-- The name of a command byte (RS = 0), by its highest set bit (R82), where the bits the source always emits as 0 are 0; a
byte no row takes keeps the name SEND_BYTE (91_not_in_source.md N8). -/
def namedCommand (v : Byte) : Instr :=
  if v.getLsbD 7 then .setddram (v.extractLsb' 0 7)
  else if v.getLsbD 6 then .setcgram (v.extractLsb' 0 6)
  else if v.getLsbD 5 then
    if v.extractLsb' 0 2 = 0 then .funcset (v.getLsbD 4) (v.getLsbD 3) (v.getLsbD 2) else .sendByte false v
  else if v.getLsbD 4 then
    if v.extractLsb' 0 2 = 0 then .shift (v.getLsbD 3) (v.getLsbD 2) else .sendByte false v
  else if v.getLsbD 3 then .dispctl (v.getLsbD 2) (v.getLsbD 1) (v.getLsbD 0)
  else if v.getLsbD 2 then .entry (v.getLsbD 1) (v.getLsbD 0)
  else if v.getLsbD 1 then
    if v.getLsbD 0 then .sendByte false v else .home
  else if v.getLsbD 0 then .clear
  else .sendByte false v

/-- The most specific name the opcode table has for an instruction's word (log entry 9). -/
def Instr.named : Instr → Instr
  | .sendByte rs value => if rs then .putc value else namedCommand value
  | .sendNibble nib => if nib = 0x3 then .initReset8 else if nib = 0x2 then .initSwitch4 else .sendNibble nib
  | i => i

/-- The request of R70 that carries an instruction: the expansions of R80 for the payload rows, R83 for the initialization
nibbles. -/
def Instr.core : Instr → Instr
  | .sendByte rs value => .sendByte rs value
  | .sendNibble nib => .sendNibble nib
  | .setCtrl rs => .setCtrl rs
  | .wait ms => .wait ms
  | .clear => .sendByte false Machine.clearByte
  | .home => .sendByte false Machine.homeByte
  | .entry id sh => .sendByte false (Machine.entryByte id sh)
  | .dispctl d c b => .sendByte false (Machine.dispctlByte d c b)
  | .shift sc rl => .sendByte false (Machine.shiftByte sc rl)
  | .funcset dl n f => .sendByte false (Machine.funcsetByte dl n f)
  | .setcgram a => .sendByte false (Machine.setcgramByte a)
  | .setddram a => .sendByte false (Machine.setddramByte a)
  | .putc v => .sendByte true v
  | .initReset8 => .sendNibble Machine.initReset8Nibble
  | .initSwitch4 => .sendNibble Machine.initSwitch4Nibble

/-- The decoder: R76's request, under the most specific name of the opcode table. -/
def decode (w : ReqWord) : Decoded :=
  match decodeCore w with
  | .request i => .request i.named
  | .illegal v => .illegal v

/-- The request word of an instruction, field by field from its row's bit pattern (R71 to R74, R82, R83 and the opcode table's
`encoding` strings). -/
def encode : Instr → ReqWord
  | .sendByte rs value => 0b00#2 ++ 0b0000#4 ++ 0b0#1 ++ BitVec.ofBool rs ++ value
  | .sendNibble nib => 0b01#2 ++ 0b0000000000#10 ++ nib
  | .setCtrl rs => 0b10#2 ++ 0b0000#4 ++ 0b0#1 ++ BitVec.ofBool rs ++ 0b00000000#8
  | .wait ms => 0b11#2 ++ ms
  | .clear => 0b0000000#7 ++ 0b000000001#9
  | .home => 0b0000000#7 ++ 0b000000010#9
  | .entry id sh => 0b0000000#7 ++ 0b0000001#7 ++ BitVec.ofBool id ++ BitVec.ofBool sh
  | .dispctl d c b => 0b0000000#7 ++ 0b000001#6 ++ BitVec.ofBool d ++ BitVec.ofBool c ++ BitVec.ofBool b
  | .shift sc rl => 0b0000000#7 ++ 0b00001#5 ++ BitVec.ofBool sc ++ BitVec.ofBool rl ++ 0b00#2
  | .funcset dl n f => 0b0000000#7 ++ 0b0001#4 ++ BitVec.ofBool dl ++ BitVec.ofBool n ++ BitVec.ofBool f ++ 0b00#2
  | .setcgram a => 0b0000000#7 ++ 0b001#3 ++ a
  | .setddram a => 0b0000000#7 ++ 0b01#2 ++ a
  | .putc v => 0b0000000#7 ++ 0b1#1 ++ v
  | .initReset8 => 0b01#2 ++ 0b0000000000#10 ++ 0b0011#4
  | .initSwitch4 => 0b01#2 ++ 0b0000000000#10 ++ 0b0010#4

/-- Mask and match of the `req16` rows of the opcode table, in its order. "A word matching no req16 row is illegal". -/
def requestRows : List (ReqWord × ReqWord) :=
  [(0xFE00, 0x0000), (0xFFF0, 0x4000), (0xFEFF, 0x8000), (0xC000, 0xC000)]

/-- Some request row of the opcode table takes the word. -/
def isRequestRow (w : ReqWord) : Bool := requestRows.any fun row => w &&& row.1 == row.2

/-- The decoder takes the word (R77: the other words are the illegal ones). -/
def isLegal (w : ReqWord) : Bool :=
  match decode w with
  | .request _ => true
  | .illegal _ => false

/-- The request word that a table row's bits stand for. A `req16` row gives the word itself. A `payload9` row gives the low nine
bits of the SEND_BYTE word that carries it (R82), the rest being 0. A `nibble` row (at most 8 bits wide in whole bytes) gives
the nibble of the SEND_NIBBLE word that carries it (R83). Log entry 20. -/
def tableWord (nbits w : Nat) : ReqWord :=
  if nbits ≤ 8 then 0x4000 ||| BitVec.ofNat 16 w else BitVec.ofNat 16 w

/-- The instruction the decoder reads from the bits `w` of a table row, `nbits` wide in whole bytes; none where it refuses. -/
def decodeTableWord (nbits w : Nat) : Option Instr :=
  if w < 2 ^ nbits then
    match decode (tableWord nbits w) with
    | .request i => some i
    | .illegal _ => none
  else none

end Sys2Proof
end

