-- ==== Sys2Proof/Machine/State.lean ====
section
/-! DEFINITION. The state of NSER (10_state.md R20 to R35), plain data, its reset value, and the reasons a step could stop. -/

namespace Sys2Proof.Machine

/-- The sequencing phase (R24). -/
inductive Phase where
  /-- No operation in progress; a request is accepted. -/
  | idle
  /-- Levels on the bus, E low, for at least `T_SU_MIN`. -/
  | setup
  /-- E high, for at least `T_PW_MIN`. -/
  | pulse
  /-- E low again, for at least `T_SETTLE_MIN`. -/
  | settle
  /-- A WAIT request in progress. -/
  | wait
deriving DecidableEq, Repr

/-- The seven output latches (R20): RS, RW and E, and D7..D4 as the nibble `d`, with `d`'s bit i on D(4+i) (R21). `true` is high
(R9, R10). -/
structure Pins where
  rs : Bool
  rw : Bool
  e : Bool
  d : Nibble
deriving DecidableEq, Repr

/-- The pin levels of reset (R34, R200). -/
def Pins.low : Pins := ⟨false, false, false, 0⟩

/-- The six levels one E pulse frames, `(rs, rw, n)` (R81). -/
structure Lines where
  rs : Bool
  rw : Bool
  n : Nibble
deriving DecidableEq, Repr

/-- The entries of `s.trace`: the events (R107, R181, R200, R201) and the pin-level changes (R28), in one order. -/
inductive Event where
  /-- `Xfer(rs, rw, n, t_rise, t_fall)`: one E pulse (R107). -/
  | xfer (rs rw : Bool) (n : Nibble) (tRise tFall : Nat)
  /-- `IllegalEv(w, now)`: an illegal word was accepted (R181). -/
  | illegalEv (w : ReqWord) (time : Nat)
  /-- `Reset(now)` (R200). -/
  | reset (time : Nat)
  /-- `CutPulse(rs, rw, n, t_rise, now)`: an E pulse cut short by reset (R201). -/
  | cutPulse (rs rw : Bool) (n : Nibble) (tRise time : Nat)
  /-- A pin-level change (R28): from `time` on, the output lines stand at `levels`. -/
  | pinChange (levels : Pins) (time : Nat)
deriving DecidableEq, Repr

/-- The state: NSER's fields (R34, R35), the input lines (R31, R32), the host's request stream (R29), the timing parameters (R6)
and the schedule of moves (R106, R188). -/
structure State where
  /-- The timing parameters (R6); no step changes them. -/
  cfg : Config
  /-- The output latches `pin.RS`, `pin.RW`, `pin.E`, `pin.D` (R20). -/
  pin : Pins
  /-- `s.phase` (R24). -/
  phase : Phase
  /-- `s.pend`: the low nibble of a byte transfer whose high nibble is in flight (R25). -/
  pend : Option Nibble
  /-- `s.min`: the minimum duration of the current phase, ns (R26). -/
  min : Nat
  /-- `s.elapsed`: the time spent in the current phase, ns (R26). -/
  elapsed : Nat
  /-- `s.err`: the sticky illegal-request status (R27). -/
  err : Bool
  /-- `s.now`: the time since power-on, ns; observation (R28). -/
  now : Nat
  /-- `s.t_rise`: the time of the last rising edge of E; observation (R28). -/
  tRise : Nat
  /-- `s.trace`: the events and the pin-level changes, oldest first; observation (R28, log entry 8). -/
  trace : List Event
  /-- The input `req_valid` (R31). -/
  reqValid : Bool
  /-- The input `req_word[15:0]` (R31). -/
  reqWord : ReqWord
  /-- The input `rst`, active high (R32). -/
  rst : Bool
  /-- The host's request words not yet presented, first one first (R5, R29). -/
  stream : List ReqWord
  /-- The moves that come next, first one first: the injectable time source of R188 (log entry 1). -/
  sched : List Move
  /-- How many free moves have been taken (log entry 1). -/
  draws : Nat
deriving DecidableEq, Repr

/-- Power-on (R202): the reset state of R200 and R34 with `now` = 0 and an empty trace. The input lines are low and no request
and no move is waiting (log entry 7). -/
def State.reset : State where
  cfg := Config.default
  pin := Pins.low
  phase := .idle
  pend := none
  min := 0
  elapsed := 0
  err := false
  now := 0
  tRise := 0
  trace := []
  reqValid := false
  reqWord := 0
  rst := false
  stream := []
  sched := []
  draws := 0

/-- Reasons a step could end in a fault. None: NSER has no exceptions, traps or trap vectors (R180). Its one abnormal event, an
illegal request word, is recorded in `err` and the machine goes on (R181). Nothing raises a fault, which is safe only because no
rule of the spec stops the machine. -/
inductive Fault where
deriving DecidableEq, Repr

/-- Reasons a step could be refused. -/
inductive Refusal where
  /-- The instruction has no meaning in this model. Raised by no arm of `exec`: every instruction has its meaning. Safe. -/
  | notModelled (mnemonic : String)
deriving DecidableEq, Repr

/-- What a step or an instruction answers. -/
abbrev Outcome := Host.Outcome State Fault Refusal

end Sys2Proof.Machine
end

