-- ==== Sys2Proof/Machine/Flags.lean ====
section
/-! DEFINITION. NSER's one flag, `s.err`, and the status outputs derived from state (10_state.md R27, R30). -/

namespace Sys2Proof.Machine

/-- `s.err <- 1`; sticky, cleared only by reset (R27, R181, R182). -/
def State.setErr (s : State) : State := { s with err := true }

/-- `ready_o = (s.phase == IDLE)` (R30). -/
def State.readyO (s : State) : Bool := s.phase == .idle

/-- `busy_o = not ready_o` (R30). -/
def State.busyO (s : State) : Bool := !s.readyO

/-- `err_o = s.err` (R30). -/
def State.errO (s : State) : Bool := s.err

end Sys2Proof.Machine
end

