-- ==== Sys2Proof/Machine/Ops.lean ====
section
/-! DEFINITION. The named operations of the machine: pin drives (00_scope.md R9), the trace, the start of a strobe
(40_transport.md R102), acceptance (10_state.md R31), the illegal request (60_exceptions.md R181) and reset
(70_reset_and_hazards.md R200, R201). -/

namespace Sys2Proof.Machine

/-- What a drive from the levels `old` to the levels `new` puts in the trace: one pin-level change (R28), and nothing when no level
changes. -/
def Pins.changeTo (old new : Pins) (time : Nat) : List Event := if new = old then [] else [.pinChange new time]

/-- Drive the output lines to the levels `p` in one step. Each line keeps the level last driven (R22), every drive takes effect
(R116), and a change of level is recorded with its time (R28). Driving a line to the level it has is no change. -/
def State.drive (s : State) (p : Pins) : State :=
  { s with pin := p, trace := s.trace ++ s.pin.changeTo p s.now }

/-- Append an event to the trace (R28). -/
def State.emit (s : State) (ev : Event) : State := { s with trace := s.trace ++ [ev] }

/-- Enter a phase whose minimum is `t` ns: `s.phase <- p; s.min <- t; s.elapsed <- 0`. -/
def State.startPhase (s : State) (p : Phase) (t : Nat) : State := { s with phase := p, min := t, elapsed := 0 }

/-- Return to IDLE: `s.phase <- IDLE; s.min <- 0; s.elapsed <- 0` (R104, R132). -/
def State.toIdle (s : State) : State := s.startPhase .idle 0

/-- `s.pend <- p` (R25). -/
def State.setPend (s : State) (p : Option Nibble) : State := { s with pend := p }

/-- `s.t_rise <- t` (R28, R103). -/
def State.setTRise (s : State) (t : Nat) : State := { s with tRise := t }

/-- `begin_nibble(n)` (R102): all four data lines at once (R117), E low, and the setup phase. -/
def State.beginNibble (s : State) (n : Nibble) : State :=
  (s.drive { s.pin with d := n, e := false }).startPhase .setup s.cfg.tSuMin

/-- Acceptance (R31): in IDLE the request has its effect; while another is in progress it is held, with no effect. -/
def State.accept (s : State) (effect : State → State) : Outcome :=
  .next (if s.phase = .idle then effect s else s)

/-- What SEND_NIBBLE does at acceptance (R100): RS and RW are not driven. -/
def State.startNibble (s : State) (nib : Nibble) : State := (s.setPend none).beginNibble nib

/-- What SEND_BYTE does at acceptance (R101): RS and RW once, the low nibble pending, and the high nibble's strobe. -/
def State.startByte (s : State) (rs : Bool) (value : Byte) : State :=
  ((s.drive { s.pin with rs := rs, rw := false }).setPend (some (loNibble value))).beginNibble (hiNibble value)

/-- `raise IllegalRequest(w)` (R181), the spec's one exception: the error flag and the observation, nothing else. No state is
saved, no control passes anywhere, and there is no return from it (R186). -/
def State.raiseIllegal (s : State) (w : ReqWord) : State := s.setErr.emit (.illegalEv w s.now)

/-- R201: a reset during PULSE cuts the E pulse short and records it. -/
def State.cutPulse (s : State) : State :=
  if s.phase = .pulse then s.emit (.cutPulse s.pin.rs s.pin.rw s.pin.d s.tRise s.now) else s

/-- Reset takes effect (R200, R201): every NSER field at its reset value, the cut pulse and the reset recorded, `now` and `t_rise`
unchanged. The host lowers `rst` (log entry 5). What the host presents is the host's and stays (log entry 6). -/
def State.takeReset (s : State) : State :=
  { (((s.cutPulse.drive Pins.low).toIdle.setPend none).emit (.reset s.now)) with err := false, rst := false }

/-- `Advance(δ)` (R106): time passes, and counts into the phase unless IDLE. -/
def State.advance (s : State) (δ : Nat) : State :=
  { s with now := s.now + δ, elapsed := if s.phase = .idle then s.elapsed else s.elapsed + δ }

/-- The host presents its next request word, if it has one and none is presented still: a presented word is kept until it is
accepted (R193, decision D2). -/
def State.present (s : State) : State :=
  if s.reqValid then s
  else
    match s.stream with
    | [] => s
    | w :: ws => { s with reqValid := true, reqWord := w, stream := ws }

/-- The host asserts `rst` (R32). -/
def State.assertReset (s : State) : State := { s with rst := true }

/-- The presented word is taken: one acceptance consumes one request word (R31). -/
def State.consume (s : State) : State := { s with reqValid := false }

/-- The move that comes next: the schedule's first, or a free one when the schedule is used up (log entry 1). -/
def State.nextMove (s : State) : Move :=
  match s.sched with
  | [] => Config.freeMove s.draws
  | m :: _ => m

/-- The state with its next move taken off the schedule (or off the free moves). -/
def State.useMove (s : State) : State :=
  match s.sched with
  | [] => { s with draws := s.draws + 1 }
  | _ :: ms => { s with sched := ms }

end Sys2Proof.Machine
end

