-- ==== Sys2Proof/Machine/Control.lean ====
section
/-! DEFINITION. The control requests SET_CTRL and WAIT (41_control.md R130, R131, R133). -/

namespace Sys2Proof.Machine

/-- SET_CTRL (R130): RS, E and RW driven in one step; IDLE stays, no time passes, no transfer. -/
def execSetCtrl (rs : Bool) (s : State) : Outcome :=
  s.accept fun s => s.drive { s.pin with rs := rs, e := false, rw := false }

/-- WAIT (R131): the wait phase of at least `ms` units; a count of 0 changes nothing (R133). -/
def execWait (ms : WaitCount) (s : State) : Outcome :=
  s.accept fun s => if ms = 0 then s else s.startPhase .wait (waitDuration s.cfg ms)

end Sys2Proof.Machine
end

