-- ==== Sys2Proof/Machine/InitNibbles.lean ====
section
/-! DEFINITION. The two raw nibbles of the initialization sequence (30_encoding.md R83), each the SEND_NIBBLE that carries it. -/

namespace Sys2Proof.Machine

/-- The initialization nibble 0x3 (R83). -/
def execInitReset8 (s : State) : Outcome := s.accept fun s => s.startNibble initReset8Nibble

/-- The initialization nibble 0x2 (R83). -/
def execInitSwitch4 (s : State) : Outcome := s.accept fun s => s.startNibble initSwitch4Nibble

end Sys2Proof.Machine
end

