-- ==== Sys2Proof/Machine/Payload.lean ====
section
/-! DEFINITION. The payload rows (42_payload_commands.md R150 to R158): each is the SEND_BYTE that carries its byte, RS low for a
command and high for data. NSER transports the byte and gives it no further meaning. -/

namespace Sys2Proof.Machine

/-- CLEAR (R150). -/
def execClear (s : State) : Outcome := s.accept fun s => s.startByte false clearByte

/-- HOME (R151). -/
def execHome (s : State) : Outcome := s.accept fun s => s.startByte false homeByte

/-- ENTRY (R152). -/
def execEntry (id sh : Bool) (s : State) : Outcome := s.accept fun s => s.startByte false (entryByte id sh)

/-- DISPCTL (R153). -/
def execDispctl (d c b : Bool) (s : State) : Outcome := s.accept fun s => s.startByte false (dispctlByte d c b)

/-- SHIFT (R154). -/
def execShift (sc rl : Bool) (s : State) : Outcome := s.accept fun s => s.startByte false (shiftByte sc rl)

/-- FUNCSET (R155). -/
def execFuncset (dl n f : Bool) (s : State) : Outcome := s.accept fun s => s.startByte false (funcsetByte dl n f)

/-- SETCGRAM (R156). -/
def execSetcgram (a : BitVec 6) (s : State) : Outcome := s.accept fun s => s.startByte false (setcgramByte a)

/-- SETDDRAM (R157). -/
def execSetddram (a : BitVec 7) (s : State) : Outcome := s.accept fun s => s.startByte false (setddramByte a)

/-- PUTC (R158). -/
def execPutc (v : Byte) (s : State) : Outcome := s.accept fun s => s.startByte true v

end Sys2Proof.Machine
end

