-- ==== Sys2Proof/Machine/Transport.lean ====
section
/-! DEFINITION. The transport requests SEND_BYTE and SEND_NIBBLE (40_transport.md R100, R101). -/

namespace Sys2Proof.Machine

/-- SEND_BYTE (R101). -/
def execSendByte (rs : Bool) (value : Byte) (s : State) : Outcome := s.accept fun s => s.startByte rs value

/-- SEND_NIBBLE (R100). -/
def execSendNibble (nib : Nibble) (s : State) : Outcome := s.accept fun s => s.startNibble nib

end Sys2Proof.Machine
end

