-- ==== Sys2Proof/Machine/Dispatch.lean ====
section
/-! DEFINITION. The meaning of every instruction, one arm per constructor. -/

namespace Sys2Proof.Machine

def exec (i : Instr) (s : State) : Host.Outcome State Fault Refusal :=
  match i with
  -- NSER's four requests
  | .sendByte rs value => Sys2Proof.Machine.execSendByte rs value s
  | .sendNibble nib => Sys2Proof.Machine.execSendNibble nib s
  | .setCtrl rs => Sys2Proof.Machine.execSetCtrl rs s
  | .wait ms => Sys2Proof.Machine.execWait ms s
  -- the payload rows
  | .clear => Sys2Proof.Machine.execClear s
  | .home => Sys2Proof.Machine.execHome s
  | .entry id sh => Sys2Proof.Machine.execEntry id sh s
  | .dispctl d c b => Sys2Proof.Machine.execDispctl d c b s
  | .shift sc rl => Sys2Proof.Machine.execShift sc rl s
  | .funcset dl n f => Sys2Proof.Machine.execFuncset dl n f s
  | .setcgram a => Sys2Proof.Machine.execSetcgram a s
  | .setddram a => Sys2Proof.Machine.execSetddram a s
  | .putc v => Sys2Proof.Machine.execPutc v s
  -- the initialization nibbles
  | .initReset8 => Sys2Proof.Machine.execInitReset8 s
  | .initSwitch4 => Sys2Proof.Machine.execInitSwitch4 s

end Sys2Proof.Machine
end

