-- ==== Sys2Proof/Machine/Engine.lean ====
section
/-! DEFINITION. The strobe engine and the end of a WAIT: what each phase does when it ends (40_transport.md R103 to R105,
41_control.md R132). -/

namespace Sys2Proof.Machine

/-- End of SETUP (R103): E rises. -/
def State.endSetup (s : State) : State :=
  ((s.drive { s.pin with e := true }).setTRise s.now).startPhase .pulse s.cfg.tPwMin

/-- End of PULSE (R105): E falls and the transfer is recorded (R107). -/
def State.endPulse (s : State) : State :=
  ((s.drive { s.pin with e := false }).emit (.xfer s.pin.rs s.pin.rw s.pin.d s.tRise s.now)).startPhase .settle
    s.cfg.tSettleMin

/-- End of SETTLE (R104): the pending low nibble's strobe, or IDLE. -/
def State.endSettle (s : State) : State :=
  match s.pend with
  | some lo => (s.setPend none).beginNibble lo
  | none => s.toIdle

/-- End of WAIT (R132). -/
def State.endWait (s : State) : State := s.toIdle

/-- The step that ends the current phase; IDLE is ended by an acceptance only. -/
def State.endPhase (s : State) : State :=
  match s.phase with
  | .idle => s
  | .setup => s.endSetup
  | .pulse => s.endPulse
  | .settle => s.endSettle
  | .wait => s.endWait

end Sys2Proof.Machine
end

