-- ==== Sys2Proof/Machine/Moves.lean ====
section
/-! DEFINITION. What each move does (40_transport.md R106, 10_state.md R31, 60_exceptions.md R181, R185, R193). -/

namespace Sys2Proof.Machine

/-- NSER in IDLE takes the presented word: the decoded request has its effect (R76), an illegal word raises the error (R181). -/
def State.acceptWord (s : State) : Outcome :=
  match decode s.reqWord with
  | .request i => exec i s.consume
  | .illegal w => .next (s.consume.raiseIllegal w)

/-- The zero-time step NSER is enabled to take: in IDLE a request is accepted exactly when one is presented (R31); another phase
may end once its minimum has passed (R26). Where neither is enabled, nothing changes (log entry 4). -/
def State.act (s : State) : Outcome :=
  if s.phase = .idle then
    if s.reqValid then s.acceptWord else .next s
  else if s.min ≤ s.elapsed then .next s.endPhase
  else .next s

/-- One move. -/
def State.perform (s : State) (m : Move) : Outcome :=
  match m with
  | .pass extra => .next (s.advance (extra + 1))
  | .act => s.act
  | .present => .next s.present
  | .assertReset => .next s.assertReset

end Sys2Proof.Machine
end

