-- ==== Sys2Proof/Machine/Step.lean ====
section
/-! DEFINITION. One step of the machine. -/

namespace Sys2Proof.Machine

/-- One step: reset overrides everything (R185); otherwise the next move is taken and performed. -/
def step (s : State) : Host.Outcome State Fault Refusal :=
  if s.rst then .next s.takeReset else s.useMove.perform s.nextMove

/-- The state in which the very next step accepts the word that the bits `w` of a table row stand for: the word is presented, the
next move is NSER's own, reset is low and NSER is IDLE (at reset it is IDLE already). It stands for a host that presents the
word. Log entry 18. -/
def State.withFetchWord (s : State) (nbits w : Nat) : State :=
  { s with
    reqValid := true, reqWord := tableWord nbits w, sched := .act :: s.sched, rst := false,
    phase := .idle, min := 0, elapsed := 0, pend := none, pin := { s.pin with e := false } }

end Sys2Proof.Machine
end

