-- ==== Sys2Proof/Machine/Streams.lean ====
section
/-! DEFINITION. The request streams of the host (42_payload_commands.md R161 to R167, 70_reset_and_hazards.md R210). What the
firmware validates before it sends anything is out of scope (00_scope.md R4): where a rule gives no condition, the answer of
that check is an argument (log entry 22). -/

namespace Sys2Proof.Machine

/-- `write_ascii(text)` (R161): one data write per byte, in order; a rejected text sends nothing. -/
def writeAscii (accepted : Bool) (text : List Byte) : List Instr := if accepted then text.map .putc else []

/-- `set_cg_character(index, pattern)` (R162): the address instruction and eight data writes, top row first; for `index ≥ 8`
nothing. -/
def setCgCharacter (index : Nat) (pattern : Vector Byte 8) : List Instr :=
  if index < 8 then .sendByte false (0x40 ||| BitVec.ofNat 8 (index * 8)) :: pattern.toList.map .putc else []

/-- `set_cursor_pos(address)` (R163): the firmware accepts `address ≤ 0x80`, and 0x80 gives the byte 0x80 (90_conflicts.md C2). -/
def setCursorPos (address : Byte) : List Instr :=
  if address ≤ 0x80 then [.sendByte false (0x80 ||| address)] else []

/-- `shift_display_left` (R164). -/
def shiftDisplayLeft : List Instr := [.shift true false]

/-- `shift_display_right` (R164). -/
def shiftDisplayRight : List Instr := [.shift true true]

/-- `reset_display` (R165). -/
def resetDisplay : List Instr := [.clear]

/-- `toggle_display`, `toggle_cursor` and `toggle_blink` (R166): one Display Control with the bits the firmware computes. -/
def toggle (d c b : Bool) : List Instr := [.dispctl d c b]

/-- The Return-Home operation (R167): the instruction, then a host wait of 2 ms. -/
def returnHome : List Instr := [.home, .wait 2]

/-- The initialization sequence (R210), step by step. -/
def initStream : List Instr :=
  [.wait 500] ++ [.setCtrl false] ++ [.initReset8, .wait 10] ++ [.initReset8, .wait 10] ++ [.initReset8, .wait 10] ++
  [.initSwitch4] ++ [.funcset false true false, .wait 10] ++ [.dispctl false false false, .wait 10] ++ [.clear, .wait 10] ++
  [.entry true false, .wait 10] ++ [.dispctl true true true, .wait 10] ++ returnHome

/-- The words of a stream. -/
def words (is : List Instr) : List ReqWord := is.map encode

/-- A program comes to run from outside: the host is given a stream of request words to present (log entry 18). -/
def State.load (s : State) (is : List Instr) : State := { s with stream := s.stream ++ words is }

end Sys2Proof.Machine
end

