-- ==== Sys2Proof/Machine/Assembler.lean ====
section
/-! DEFINITION. The assembler: one line, one request (30_encoding.md R79), and the pseudo-instructions (R80). A line is given as
its mnemonic with its operands read as numbers; a number is decimal or hexadecimal in the text, which is no matter here. -/

namespace Sys2Proof.Machine

/-- The operand of `SEND.DATA` and `PUTC`: a number, or a character literal (R79). -/
inductive AsmValue where
  | num (n : Nat)
  | chr (c : Char)
deriving DecidableEq, Repr

/-- One line of assembly (R79, R80). -/
inductive AsmLine where
  | sendCmd (value : Nat)
  | sendData (value : AsmValue)
  | send4 (nib : Nat)
  | setctl (rs : Nat)
  | wait (ms : Nat)
  | clear
  | home
  | entry (id sh : Nat)
  | dispctl (d c b : Nat)
  | shift (sc rl : Nat)
  | funcset (dl n f : Nat)
  | setcgram (a : Nat)
  | setddram (a : Nat)
  | putc (value : AsmValue)
  | init
deriving DecidableEq, Repr

/-- A number in a field of the given width; out of range is an assembly error, not a truncation (R79). -/
def asmField (width n : Nat) : Option (BitVec width) := if n < 2 ^ width then some (BitVec.ofNat width n) else none

/-- A one-bit operand (R79). -/
def asmBit (n : Nat) : Option Bool := if n = 0 then some false else if n = 1 then some true else none

/-- A data value: a number of 8 bits, or a character's 7-bit ASCII code (R79). -/
def asmValue : AsmValue → Option Byte
  | .num n => asmField 8 n
  | .chr c => if c.toNat < 128 then some (BitVec.ofNat 8 c.toNat) else none

/-- The requests a line stands for; none is an assembly error (R79, R80). -/
def assembleLine : AsmLine → Option (List Instr)
  | .sendCmd v => (asmField 8 v).map fun v => [.sendByte false v]
  | .sendData v => (asmValue v).map fun v => [.sendByte true v]
  | .send4 n => (asmField 4 n).map fun n => [.sendNibble n]
  | .setctl rs => (asmBit rs).map fun rs => [.setCtrl rs]
  | .wait ms => (asmField 14 ms).map fun ms => [.wait ms]
  | .clear => some [.clear]
  | .home => some [.home]
  | .entry id sh => (asmBit id).bind fun id => (asmBit sh).map fun sh => [.entry id sh]
  | .dispctl d c b => (asmBit d).bind fun d => (asmBit c).bind fun c => (asmBit b).map fun b => [.dispctl d c b]
  | .shift sc rl => (asmBit sc).bind fun sc => (asmBit rl).map fun rl => [.shift sc rl]
  | .funcset dl n f => (asmBit dl).bind fun dl => (asmBit n).bind fun n => (asmBit f).map fun f => [.funcset dl n f]
  | .setcgram a => (asmField 6 a).map fun a => [.setcgram a]
  | .setddram a => (asmField 7 a).map fun a => [.setddram a]
  | .putc v => (asmValue v).map fun v => [.putc v]
  | .init => some initStream

/-- The request words of a line. -/
def assemble (l : AsmLine) : Option (List ReqWord) := (assembleLine l).map words

end Sys2Proof.Machine
end

