-- ==== Sys2Proof/Machine/Lines.lean ====
section
/-! DEFINITION. What crosses the bus: the data lines (10_state.md R21), the class of a payload byte (30_encoding.md R82), and
the transfers and the least time that a request and a stream of requests take (30_encoding.md R81, 40_transport.md R110,
20_memory.md R60). -/

namespace Sys2Proof.Machine

/-- Level of the data line D(4+i) (R21). -/
def Pins.dataLine (p : Pins) (i : Fin 4) : Bool := p.d.getLsbD i.val

/-- The six levels on the bus now (R81). -/
def Pins.lines (p : Pins) : Lines := ⟨p.rs, p.rw, p.d⟩

/-- The transfer an event records, without its times (R107); a cut pulse is no transfer of NSER's (R201). -/
def Event.lines : Event → Option Lines
  | .xfer rs rw n _ _ => some ⟨rs, rw, n⟩
  | .illegalEv _ _ => none
  | .reset _ => none
  | .cutPulse _ _ _ _ _ => none
  | .pinChange _ _ => none

/-- The entry is a pin-level change (R28). -/
def Event.isPinChange : Event → Bool
  | .xfer _ _ _ _ _ => false
  | .illegalEv _ _ => false
  | .reset _ => false
  | .cutPulse _ _ _ _ _ => false
  | .pinChange _ _ => true

/-- The events of the trace, without the pin-level changes between them: the entries that R34's table and the vectors of
95_test_vectors.md show (log entry 8). -/
def State.events (s : State) : List Event := s.trace.filter fun ev => !ev.isPinChange

/-- The transfers of a trace, in order. -/
def transfers (tr : List Event) : List Lines := tr.filterMap Event.lines

/-- The position of the highest set bit of a byte (R82). -/
def highestSetBit (v : Byte) : Option Nat := (List.range 8).reverse.find? fun k => v.getLsbD k

/-- The class of a byte transfer `{RS, byte}`: with RS = 1 data; with RS = 0 the opcode is the highest set bit, 0 for Clear
Display to 7 for Set-DDRAM-Address (R82). -/
inductive PayloadClass where
  | data
  | command (opcodeBit : Nat)
  | noCommand
deriving DecidableEq, Repr

/-- R82. -/
def payloadClass (x : Payload9) : PayloadClass :=
  if x.getLsbD 8 then .data
  else
    match highestSetBit (x.setWidth 8) with
    | some k => .command k
    | none => .noCommand

/-- The least time of one strobe (R110). -/
def strobeTime (c : Config) : Nat := c.tSuMin + c.tPwMin + c.tSettleMin

end Sys2Proof.Machine

namespace Sys2Proof

open Machine

/-- RS after a request, from RS before it (R100, R101, R130, R131). -/
def Instr.rsAfter (i : Instr) (rs : Bool) : Bool :=
  match i.core with
  | .sendByte r _ => r
  | .setCtrl r => r
  | _ => rs

/-- RW after a request, from RW before it (R100, R101, R130, R131). -/
def Instr.rwAfter (i : Instr) (rw : Bool) : Bool :=
  match i.core with
  | .sendByte _ _ => false
  | .setCtrl _ => false
  | _ => rw

/-- The data lines after a request is done, from the data lines before it (R100, R101; R130 and R131 do not drive them). -/
def Instr.dAfter (i : Instr) (d : Nibble) : Nibble :=
  match i.core with
  | .sendByte _ v => loNibble v
  | .sendNibble n => n
  | _ => d

/-- The transfers of a request accepted with RS and RW at the given levels (R81, R100, R101; R130 and R131 have none). -/
def Instr.lines (i : Instr) (rs rw : Bool) : List Lines :=
  match i.core with
  | .sendByte r v => [⟨r, false, hiNibble v⟩, ⟨r, false, loNibble v⟩]
  | .sendNibble n => [⟨rs, rw, n⟩]
  | _ => []

/-- The least time from acceptance to IDLE (R110, R230). -/
def Instr.minTime (i : Instr) (c : Config) : Nat :=
  match i.core with
  | .sendByte _ _ => strobeTime c + strobeTime c
  | .sendNibble _ => strobeTime c
  | .wait ms => waitDuration c ms
  | _ => 0

end Sys2Proof

namespace Sys2Proof.Machine

/-- The transfers of a stream of request words, accepted one after another from the given levels (R60). An illegal word has none
and changes no level (R181). -/
def streamLines (rs rw : Bool) : List ReqWord → List Lines
  | [] => []
  | w :: ws =>
    match decode w with
    | .request i => i.lines rs rw ++ streamLines (i.rsAfter rs) (i.rwAfter rw) ws
    | .illegal _ => streamLines rs rw ws

/-- The levels of RS, RW and D7..D4 after a stream of request words is done, from the levels before it (R22, R60). -/
def streamLevels (p : Lines) : List ReqWord → Lines
  | [] => p
  | w :: ws =>
    match decode w with
    | .request i => streamLevels ⟨i.rsAfter p.rs, i.rwAfter p.rw, i.dAfter p.n⟩ ws
    | .illegal _ => streamLevels p ws

/-- The least time of a stream of request words (R214, R230). -/
def streamTime (c : Config) : List ReqWord → Nat
  | [] => 0
  | w :: ws =>
    (match decode w with
     | .request i => i.minTime c
     | .illegal _ => 0) + streamTime c ws

/-- The request words that are not accepted yet: the one presented, then the host's stream. -/
def State.waiting (s : State) : List ReqWord := (if s.reqValid then [s.reqWord] else []) ++ s.stream

/-- The transfer of the pending low nibble (R104). -/
def State.pendLines (s : State) : List Lines :=
  match s.pend with
  | some lo => [⟨s.pin.rs, s.pin.rw, lo⟩]
  | none => []

/-- The transfers of the request in progress that are still to come. -/
def State.inFlight (s : State) : List Lines :=
  match s.phase with
  | .idle => []
  | .setup => s.pin.lines :: s.pendLines
  | .pulse => s.pin.lines :: s.pendLines
  | .settle => s.pendLines
  | .wait => []

/-- The transfers still to come: of the request in progress, then of every request not accepted yet. -/
def State.owed (s : State) : List Lines := s.inFlight ++ streamLines s.pin.rs s.pin.rw s.waiting

/-- The least time of the pending low nibble's strobe. -/
def State.pendTime (s : State) : Nat :=
  match s.pend with
  | some _ => strobeTime s.cfg
  | none => 0

/-- The least time until the request in progress is done. -/
def State.phaseTime (s : State) : Nat :=
  match s.phase with
  | .idle => 0
  | .setup => (s.min - s.elapsed) + s.cfg.tPwMin + s.cfg.tSettleMin + s.pendTime
  | .pulse => (s.min - s.elapsed) + s.cfg.tSettleMin + s.pendTime
  | .settle => (s.min - s.elapsed) + s.pendTime
  | .wait => s.min - s.elapsed

/-- The least time until every request is done: the one in progress, then every one not accepted yet. -/
def State.remaining (s : State) : Nat := s.phaseTime + streamTime s.cfg s.waiting

/-- The levels of RS, RW and D7..D4 when every request is done. -/
def State.endLevels (s : State) : Lines := streamLevels ⟨s.pin.rs, s.pin.rw, s.pend.getD s.pin.d⟩ s.waiting

/-- The error status when every request is done: set already, or some word not accepted yet is illegal (R181, R182). That it is false is R182's premise, told at the start (log entry 33). -/
def State.endErr (s : State) : Bool := s.err || s.waiting.any fun w => !isLegal w

/-- Levels of the output lines at time `t` once the entry `ev` of the trace is taken in, from those before it. -/
def Event.levelsAfter (t : Nat) (p : Pins) : Event → Pins
  | .xfer _ _ _ _ _ => p
  | .illegalEv _ _ => p
  | .reset _ => p
  | .cutPulse _ _ _ _ _ => p
  | .pinChange levels time => if time ≤ t then levels else p

/-- Levels of the output lines at time `t`, from the pin-level changes of a trace: those of the last change at or before `t`, and
the reset levels before the first (R22, R28). -/
def levelsAt (tr : List Event) (t : Nat) : Pins := tr.foldl (Event.levelsAfter t) Pins.low

end Sys2Proof.Machine
end

