-- ==== Sys2Proof/Safety.lean ====
section
/-! DEFINITION. What counts as a safe run: the invariants of NSER's state, of its timing and of the levels it holds
(10_state.md R23, R26; 40_transport.md R107, R108, R109, R115), the error premise of claims (60_exceptions.md R182), and the
host's duties (70_reset_and_hazards.md R211, R212, R222). -/

namespace Sys2Proof.Machine

/-- `k` steps of the machine. -/
def run (k : Nat) (s : State) : Outcome :=
  match k with
  | 0 => .next s
  | k + 1 =>
    match step s with
    | .next t => run k t
    | .fault r => .fault r
    | .refused r => .refused r

/-- Every request has been performed: NSER is IDLE and no word is waiting. -/
def State.done (s : State) : Prop := s.phase = .idle ∧ s.waiting = []

/-- The premise that a claim about a request stream takes of the state at its end: no illegal word was accepted (R182, log entry
33). -/
def State.noError (s : State) : Prop := s.err = false

/-- The invariant of NSER's fields. -/
structure Inv (s : State) : Prop where
  /-- `pin.RW` is 0 (R23). -/
  rwLow : s.pin.rw = false
  /-- E is high exactly in PULSE (R115). -/
  eHighInPulse : s.pin.e = true ↔ s.phase = .pulse
  /-- In IDLE `min` and `elapsed` are 0 (R26). -/
  idleZero : s.phase = .idle → s.min = 0 ∧ s.elapsed = 0
  /-- The minimum of SETUP (R102). -/
  setupMin : s.phase = .setup → s.min = s.cfg.tSuMin
  /-- The minimum of PULSE (R103). -/
  pulseMin : s.phase = .pulse → s.min = s.cfg.tPwMin
  /-- The minimum of SETTLE (R105). -/
  settleMin : s.phase = .settle → s.min = s.cfg.tSettleMin
  /-- The minimum of WAIT is some count of the unit, not 0 (R131, R133). -/
  waitMin : s.phase = .wait → ∃ ms : WaitCount, ms ≠ 0 ∧ s.min = waitDuration s.cfg ms
  /-- A low nibble is pending only while a strobe is in progress (R25). -/
  pendInStrobe : s.pend.isSome → s.phase = .setup ∨ s.phase = .pulse ∨ s.phase = .settle

/-- No reset is recorded in `evs`. -/
def NoReset (evs : List Event) : Prop := ∀ t, Event.reset t ∉ evs

/-- R107: every E pulse of the trace is at least `T_PW_MIN` high. -/
def PulsesLongEnough (c : Config) (tr : List Event) : Prop :=
  ∀ rs rw n a b, Event.xfer rs rw n a b ∈ tr → a + c.tPwMin ≤ b

/-- R109: between the falling edge of one transfer and the rising edge of a later one with no reset between them, at least
`T_SETTLE_MIN + T_SU_MIN` elapses. A reset between ends the settle early (R201, log entry 34). -/
def TransfersSpaced (c : Config) (tr : List Event) : Prop :=
  ∀ l m r rs rw n a b rs' rw' n' a' b',
    tr = l ++ Event.xfer rs rw n a b :: (m ++ Event.xfer rs' rw' n' a' b' :: r) → NoReset m →
    b + c.tSettleMin + c.tSuMin ≤ a'

/-- The least time since the falling edge of a transfer that no reset follows, in the present phase: what is past of the settle
and the setup. -/
def State.spacedFrom (s : State) (b : Nat) : Prop :=
  match s.phase with
  | .idle => b + s.cfg.tSettleMin ≤ s.now
  | .setup => b + s.cfg.tSettleMin + s.elapsed ≤ s.now
  | .pulse => b + s.cfg.tSettleMin + s.cfg.tSuMin ≤ s.tRise
  | .settle => b + s.elapsed ≤ s.now
  | .wait => b + s.cfg.tSettleMin ≤ s.now

/-- The timing invariant: R107 and R109 of the trace, and what the present phase still owes them. -/
structure TimingInv (s : State) : Prop where
  /-- A phase is not older than the run. -/
  elapsedLeNow : s.elapsed ≤ s.now
  /-- In PULSE, `t_rise` is the time the phase began (R103). -/
  riseInPulse : s.phase = .pulse → s.tRise + s.elapsed = s.now
  /-- R107. -/
  pulses : PulsesLongEnough s.cfg s.trace
  /-- R109. -/
  spaced : TransfersSpaced s.cfg s.trace
  /-- The spacing in the present phase. -/
  spacedNow : ∀ l m rs rw n a b, s.trace = l ++ Event.xfer rs rw n a b :: m → NoReset m → s.spacedFrom b
  /-- No recorded reset lies in the future. -/
  resetsPast : ∀ t, Event.reset t ∈ s.trace → t ≤ s.now

/-- R108: for a transfer of the trace, from `t_rise − T_SU_MIN` until `t_fall + T_SETTLE_MIN`, as far as time has passed and no
reset has come, RS, RW and D hold its levels, and E is high from `t_rise` until `t_fall` and low otherwise. -/
def LevelsHeld (s : State) : Prop :=
  ∀ l m rs rw n a b, s.trace = l ++ Event.xfer rs rw n a b :: m →
    ∀ t, a ≤ t + s.cfg.tSuMin → t < b + s.cfg.tSettleMin → t < s.now → (∀ r, Event.reset r ∈ m → t < r) →
      levelsAt s.trace t = ⟨rs, rw, decide (a ≤ t ∧ t < b), n⟩

/-- The invariant of the levels: R108, and what the present phase owes it. -/
structure LevelInv (s : State) : Prop where
  /-- The lines stand at the last recorded levels (R22). -/
  current : ∀ t, s.now ≤ t → levelsAt s.trace t = s.pin
  /-- In SETUP, PULSE and SETTLE the lines have stood so since the phase began. -/
  phaseLevels : s.phase = .setup ∨ s.phase = .pulse ∨ s.phase = .settle →
    ∀ t, s.now ≤ t + s.elapsed → levelsAt s.trace t = s.pin
  /-- In PULSE, the same levels with E low stood for at least the setup. -/
  setupLevels : s.phase = .pulse →
    ∀ t, s.tRise ≤ t + s.cfg.tSuMin → t < s.tRise → levelsAt s.trace t = { s.pin with e := false }
  /-- In SETTLE, the last event is the transfer of the lines' levels, and it fell when the phase began. -/
  settleEvent : s.phase = .settle →
    ∃ l a b, s.trace = l ++ [Event.xfer s.pin.rs s.pin.rw s.pin.d a b] ∧ b + s.elapsed = s.now
  /-- R108. -/
  held : LevelsHeld s

/-- Host duty R211: no transfer begins before `T_POWERUP_MIN` after power-up, where the far end's power-up is taken to fall at
NSER's `now` = 0. DESIGN CHOICE, unsafe (log entry 27): NSER cannot observe that power-up (92_eei_decisions.md D18), and the spec
does not say when it falls. A transfer is taken to begin at the rising edge of E, its `t_rise`. DESIGN CHOICE, unsafe (log entry 29):
R230 puts the setup within a transfer too, and R211 does not say which of the two begins it. A pulse still in progress is taken to
be no transfer yet: it counts once its end is recorded. DESIGN CHOICE, unsafe (log entry 32): the edge at which the far end takes
the levels is open (93_implementation_defined.md I2). -/
def PowerUpWaited (c : Config) (tr : List Event) : Prop :=
  (∀ rs rw n a b, Event.xfer rs rw n a b ∈ tr → c.tPowerupMin ≤ a) ∧
  ∀ rs rw n a t, Event.cutPulse rs rw n a t ∈ tr → c.tPowerupMin ≤ a

/-- The part of host duty R212 about power-up, for a host that is never reset: its request words begin with the initialization
sequence. -/
def InitializesFirst (ws : List ReqWord) : Prop := words initStream <+: ws

/-- What a run shows of the host's duty R212: the words NSER accepts and the resets it takes. -/
inductive HostEvent where
  | accepted (w : ReqWord)
  | reset
deriving DecidableEq, Repr

/-- What the next step shows: a reset before everything else (R185), or the word that it accepts (R31). -/
def State.hostEvents (s : State) : List HostEvent :=
  if s.rst then [.reset]
  else if s.nextMove = .act ∧ s.phase = .idle ∧ s.reqValid then [.accepted s.reqWord]
  else []

/-- What `k` steps show, in order. -/
def history (k : Nat) (s : State) : List HostEvent :=
  match k with
  | 0 => []
  | k + 1 =>
    s.hostEvents ++
      match step s with
      | .next t => history k t
      | .fault _ => []
      | .refused _ => []

/-- Whether a host that owes the words `owed` of the initialization sequence, and any words after them, keeps to it: every reset
makes it owe the whole sequence again (R212), a broken-off one included. While it owes a word no other word is taken, one that sends
nothing (WAIT, SET_CTRL, an illegal word) included. DESIGN CHOICE, safe (log entry 31): after a later reset R193 asks for the sequence
before other transfers only. -/
def initDuty (owed : List ReqWord) : List HostEvent → Bool
  | [] => true
  | .reset :: h => initDuty (words initStream) h
  | .accepted w :: h =>
    match owed with
    | [] => initDuty [] h
    | v :: vs => w == v && initDuty vs h

/-- Host duty R212, over the `k` steps of a run that begins at power-up: the initialization sequence comes before any other request,
after power-up and again after every later reset. Running it again at other times is allowed. -/
def InitializesAfterEveryReset (k : Nat) (s : State) : Prop := initDuty (words initStream) (history k s) = true

/-- The word is a SEND_NIBBLE. -/
def isNibbleWord (w : ReqWord) : Bool :=
  match decodeCore w with
  | .request (.sendNibble _) => true
  | _ => false

/-- The far end has been put in 4-bit mode: the first nine words of the initialization sequence have been accepted one after another
(R222). A reset of NSER does not undo it (R203). -/
def FourBitMode (h : List HostEvent) : Prop := ((words initStream).take 9).map .accepted <:+: h

/-- The event number `d` of `h` belongs to a run of the initialization sequence that begins with `h`: `m` words of the sequence in
their order, which are all of it, or as far as a reset cut it off or the history goes. -/
def InitRun (h : List HostEvent) (d : Nat) : Prop :=
  ∃ m, m ≤ (words initStream).length ∧ d < m ∧ h.take m = ((words initStream).take m).map .accepted ∧
    (m = (words initStream).length ∨ h[m]? = some .reset ∨ h[m]? = none)

/-- The event is the acceptance of a raw nibble. -/
def HostEvent.isNibble : HostEvent → Bool
  | .accepted w => isNibbleWord w
  | .reset => false

/-- Host duty R222, over the history of a run: once the far end is in 4-bit mode, every raw nibble belongs to a run of the
initialization sequence. What counts as such a run is the model's reading (log entry 30). -/
def NibblesPaired (h : List HostEvent) : Prop :=
  ∀ k, k < h.length → h[k]?.any HostEvent.isNibble = true → FourBitMode (h.take k) →
    ∃ n, n ≤ k ∧ InitRun (h.drop n) (k - n)

/-- The waits of the initialization words meet the host's duties of R6 under the parameters `c` (R210, R211). -/
def InitWaitsMet (c : Config) : Prop :=
  c.tPowerupMin ≤ waitDuration c 500 ∧ c.tInitStepMin ≤ waitDuration c 10 ∧ c.tHomeExtraMin ≤ waitDuration c 2

end Sys2Proof.Machine
end

