-- ==== Sys2Proof/Certificates/Slice0/Obligations.lean ====
section
/-! DEFINITION. The statements for the provers. Each docstring names the rules of spec/ that the statement formalises, or the
choice of the model that it rests on. -/

open Sys2Proof Sys2Proof.Machine

/-! ## Encoding -/

/-- Words written out from the bit patterns of R71 to R74 and of the opcode table, and illegal words of 95_test_vectors.md V1. The
names of the payload and nibble rows are the model's choice (log entry 9). The SET_CTRL word with RS = 1 is the spec's extension
(93_implementation_defined.md I4, log entry 12). -/
def Obligations.WrittenWordsDecode : Prop :=
  decode 0b0000000_0_00000000#16 = .request (.sendByte false 0x00) ∧
  decode 0b0000000_1_01001000#16 = .request (.putc 0x48) ∧
  decode 0b0000000_0_00101000#16 = .request (.funcset false true false) ∧
  decode 0b0000000_0_00000110#16 = .request (.entry true false) ∧
  decode 0b0000000_0_00001101#16 = .request (.dispctl true false true) ∧
  decode 0b0000000_0_00011000#16 = .request (.shift true false) ∧
  decode 0b0000000_0_01001000#16 = .request (.setcgram 0x08) ∧
  decode 0b0000000_0_11000000#16 = .request (.setddram 0x40) ∧
  decode 0b0000000_0_00000001#16 = .request .clear ∧
  decode 0b0000000_0_00000010#16 = .request .home ∧
  decode 0b01_0000000000_1111#16 = .request (.sendNibble 0xF) ∧
  decode 0b01_0000000000_0011#16 = .request .initReset8 ∧
  decode 0b01_0000000000_0010#16 = .request .initSwitch4 ∧
  decode 0b10_0000_0_1_00000000#16 = .request (.setCtrl true) ∧
  decode 0b11_00000111110100#16 = .request (.wait 500) ∧
  decode 0x0241#16 = .illegal 0x0241 ∧
  decode 0x4010#16 = .illegal 0x4010 ∧
  decode 0x8200#16 = .illegal 0x8200

/-- R77: which words are illegal, and how many of each kind. -/
def Obligations.IllegalWordsAreExactly : Prop :=
  (∀ w : ReqWord, isLegal w = false ↔
    (w.extractLsb' 14 2 = 0b00 ∧ w.extractLsb' 9 5 ≠ 0) ∨
    (w.extractLsb' 14 2 = 0b01 ∧ w.extractLsb' 4 10 ≠ 0) ∨
    (w.extractLsb' 14 2 = 0b10 ∧ (w.extractLsb' 9 5 ≠ 0 ∨ w.extractLsb' 0 8 ≠ 0))) ∧
  (List.range 16384).countP (fun n => !isLegal (BitVec.ofNat 16 n)) = 15872 ∧
  (List.range 16384).countP (fun n => !isLegal (BitVec.ofNat 16 (16384 + n))) = 16368 ∧
  (List.range 16384).countP (fun n => !isLegal (BitVec.ofNat 16 (32768 + n))) = 16382 ∧
  (List.range 16384).countP (fun n => !isLegal (BitVec.ofNat 16 (49152 + n))) = 0 ∧
  15872 + 16368 + 16382 = 48622 ∧ 512 + 16 + 2 + 16384 = 16914 ∧ 48622 + 16914 = 2 ^ 16

/-- The opcode table's note on its request rows: a word is legal exactly when a `req16` row's mask and match take it. -/
def Obligations.LegalWordsAreTheRequestRows : Prop := ∀ w : ReqWord, isLegal w = isRequestRow w

/-- Every well-formed instruction, with every operand value, is read back from its word. The names of the payload and nibble rows
are the model's choice (log entry 9). -/
def Obligations.DecodeOfEncode : Prop := ∀ i : Instr, i.wellFormed = true → decode (encode i) = .request i

/-- Every legal word is the word of the instruction read from it (R71 to R74, R76, R80, R82, R83). That the instruction is well
formed, which is to say that it is the most specific name of its word, is the model's choice of names (log entry 9). -/
def Obligations.EncodeOfDecode : Prop :=
  ∀ (w : ReqWord) (i : Instr), decode w = .request i → encode i = w ∧ i.wellFormed = true

/-- R76: naming a word's instruction by its most specific row (log entry 9) does not change the request the word is. -/
def Obligations.NamingKeepsTheRequest : Prop :=
  (∀ (w : ReqWord) (i : Instr), decode w = .request i → decodeCore w = .request i.core) ∧
  (∀ w v : ReqWord, decode w = .illegal v ↔ decodeCore w = .illegal v) ∧
  (∀ w v : ReqWord, decode w = .illegal v → v = w)

/-- R80: each pseudo-instruction assembles to the word of the `SEND.CMD` or `SEND.DATA` with the payload byte of its rule, for
operands in range, and INIT to the 21 words of R210. -/
def Obligations.PseudoInstructionsExpand : Prop :=
  assemble .clear = assemble (.sendCmd 0x01) ∧
  assemble .home = assemble (.sendCmd 0x02) ∧
  (∀ id sh, id < 2 → sh < 2 → assemble (.entry id sh) = assemble (.sendCmd (0x04 ||| id <<< 1 ||| sh))) ∧
  (∀ d c b, d < 2 → c < 2 → b < 2 →
    assemble (.dispctl d c b) = assemble (.sendCmd (0x08 ||| d <<< 2 ||| c <<< 1 ||| b))) ∧
  (∀ sc rl, sc < 2 → rl < 2 → assemble (.shift sc rl) = assemble (.sendCmd (0x10 ||| sc <<< 3 ||| rl <<< 2))) ∧
  (∀ dl n f, dl < 2 → n < 2 → f < 2 →
    assemble (.funcset dl n f) = assemble (.sendCmd (0x20 ||| dl <<< 4 ||| n <<< 3 ||| f <<< 2))) ∧
  (∀ a, a < 64 → assemble (.setcgram a) = assemble (.sendCmd (0x40 ||| a))) ∧
  (∀ a, a < 128 → assemble (.setddram a) = assemble (.sendCmd (0x80 ||| a))) ∧
  (∀ v, assemble (.putc v) = assemble (.sendData v)) ∧
  assemble .init = some [0xC1F4, 0x8000, 0x4003, 0xC00A, 0x4003, 0xC00A, 0x4003, 0xC00A, 0x4002, 0x0028, 0xC00A, 0x0008,
    0xC00A, 0x0001, 0xC00A, 0x0006, 0xC00A, 0x000F, 0xC00A, 0x0002, 0xC002]

/-- R79: the words of the five mnemonics, an operand out of its field's range being an assembly error, and a character literal
its 7-bit ASCII code. The word of `SETCTL RS=1` is the spec's extension (93_implementation_defined.md I4, log entry 12). -/
def Obligations.AssemblerWords : Prop :=
  (∀ v, assemble (.sendCmd v) = if v < 256 then some [0x0000 ||| BitVec.ofNat 16 v] else none) ∧
  (∀ v, assemble (.sendData (.num v)) = if v < 256 then some [0x0100 ||| BitVec.ofNat 16 v] else none) ∧
  (∀ c : Char, assemble (.sendData (.chr c)) = if c.toNat < 128 then some [0x0100 ||| BitVec.ofNat 16 c.toNat] else none) ∧
  (∀ n, assemble (.send4 n) = if n < 16 then some [0x4000 ||| BitVec.ofNat 16 n] else none) ∧
  (∀ r, assemble (.setctl r) = if r < 2 then some [0x8000 ||| BitVec.ofNat 16 r <<< 8] else none) ∧
  (∀ m, assemble (.wait m) = if m < 16384 then some [0xC000 ||| BitVec.ofNat 16 m] else none)

/-- R159: the options lie below the opcode bit, and the byte determines the options, for the instructions of R151 to R157 (Return
Home has none). -/
def Obligations.PayloadBytesDetermineTheirOptions : Prop :=
  highestSetBit homeByte = some 1 ∧
  (∀ id sh, highestSetBit (entryByte id sh) = some 2) ∧
  (∀ d c b, highestSetBit (dispctlByte d c b) = some 3) ∧
  (∀ sc rl, highestSetBit (shiftByte sc rl) = some 4) ∧
  (∀ dl n f, highestSetBit (funcsetByte dl n f) = some 5) ∧
  (∀ a, highestSetBit (setcgramByte a) = some 6) ∧
  (∀ a, highestSetBit (setddramByte a) = some 7) ∧
  (∀ id sh id' sh', entryByte id sh = entryByte id' sh' → id = id' ∧ sh = sh') ∧
  (∀ d c b d' c' b', dispctlByte d c b = dispctlByte d' c' b' → d = d' ∧ c = c' ∧ b = b') ∧
  (∀ sc rl sc' rl', shiftByte sc rl = shiftByte sc' rl' → sc = sc' ∧ rl = rl') ∧
  (∀ dl n f dl' n' f', funcsetByte dl n f = funcsetByte dl' n' f' → dl = dl' ∧ n = n' ∧ f = f') ∧
  (∀ a a', setcgramByte a = setcgramByte a' → a = a') ∧
  (∀ a a', setddramByte a = setddramByte a' → a = a')

/-! ## Reset and the status outputs -/

/-- R202: the first state of every run is the reset state of R200 with `now` = 0 and an empty trace. -/
def Obligations.PowerOnIsTheResetState : Prop :=
  State.reset.pin = ⟨false, false, false, 0⟩ ∧ State.reset.phase = .idle ∧ State.reset.pend = none ∧
  State.reset.min = 0 ∧ State.reset.elapsed = 0 ∧ State.reset.err = false ∧ State.reset.now = 0 ∧
  State.reset.trace = []

/-- R200, with the cut pulse of R201: reset overrides whatever is in progress, at any time and in any phase, sets every NSER field
to its reset value, leaves `now` and `t_rise` (R34), and leaves NSER ready to accept a request at once. That the parameters stay is
the model's choice (log entries 2 and 6). The events are the trace without its pin-level changes (log entry 8). -/
def Obligations.ResetSetsEveryField : Prop :=
  ∀ s : State, s.rst = true →
    ∃ t, step s = .next t ∧ t.pin.rs = false ∧ t.pin.rw = false ∧ t.pin.e = false ∧ t.pin.d = 0b0000 ∧ t.phase = .idle ∧
      t.pend = none ∧ t.min = 0 ∧ t.elapsed = 0 ∧ t.err = false ∧ t.now = s.now ∧ t.tRise = s.tRise ∧ t.cfg = s.cfg ∧
      t.events = s.events ++ (if s.phase = .pulse then [.cutPulse s.pin.rs s.pin.rw s.pin.d s.tRise s.now] else []) ++
        [.reset s.now] ∧
      t.readyO = true ∧
      ∀ (w : ReqWord) (i : Instr) (ms : List Move), decode w = .request i →
        step { t with rst := false, reqValid := true, reqWord := w, sched := .act :: ms } =
          exec i { t with rst := false, reqValid := false, reqWord := w, sched := ms }

/-- R201: nothing of a request that reset cuts off is performed later: no transfer of it is still to come, and what waits are the
words not accepted yet, from the reset levels. That the host's request lines, its stream and the schedule stay, that the reset line falls, and where the pin
change stands among the entries of the reset instant, is the model's choice (log entries 5, 6 and 23); that the trace has it at all,
and not where no level changes, is the model's reading of R28 (log entry 8). -/
def Obligations.ResetDropsTheRequestInProgress : Prop :=
  ∀ s t : State, s.rst = true → step s = .next t →
    t.inFlight = [] ∧ t.waiting = s.waiting ∧ t.pin = ⟨false, false, false, 0⟩ ∧ transfers t.trace = transfers s.trace ∧
    t.trace = s.trace ++ (if s.phase = .pulse then [.cutPulse s.pin.rs s.pin.rw s.pin.d s.tRise s.now] else []) ++
      s.pin.changeTo Pins.low s.now ++ [.reset s.now] ∧
    t.rst = false ∧ t.reqValid = s.reqValid ∧ t.reqWord = s.reqWord ∧ t.stream = s.stream ∧ t.sched = s.sched ∧
    t.draws = s.draws

/-- R30: the status outputs. -/
def Obligations.StatusOutputsFollowThePhase : Prop :=
  ∀ s : State, (s.readyO = true ↔ s.phase = .idle) ∧ s.busyO = !s.readyO ∧ s.errO = s.err

/-! ## The requests -/

/-- SEND_BYTE at acceptance (R101): RS and RW driven once, the low nibble pending, the high nibble's setup begun; nothing else
changes. The entries of the trace, one for RS and RW and one for D and E, and none where no level changes, are the model's reading
of R28 (log entries 8 and 21). -/
def Obligations.SendByteStartsItsHighNibble : Prop :=
  ∀ (rs : Bool) (v : Byte) (s : State), s.phase = .idle →
    exec (.sendByte rs v) s = .next { s with
      pin := ⟨rs, false, false, (v >>> 4).setWidth 4⟩, pend := some ((v &&& 0x0F).setWidth 4), phase := .setup,
      min := s.cfg.tSuMin, elapsed := 0,
      trace := s.trace ++ s.pin.changeTo ⟨rs, false, s.pin.e, s.pin.d⟩ s.now ++
        Pins.changeTo ⟨rs, false, s.pin.e, s.pin.d⟩ ⟨rs, false, false, (v >>> 4).setWidth 4⟩ s.now }

/-- SEND_NIBBLE at acceptance (R100): RS and RW are not driven; nothing else changes. The entry of the trace, one for D and E, and
none where no level changes, is the model's reading of R28 (log entries 8 and 21). -/
def Obligations.SendNibbleStartsItsStrobe : Prop :=
  ∀ (n : Nibble) (s : State), s.phase = .idle →
    exec (.sendNibble n) s = .next { s with
      pin := ⟨s.pin.rs, s.pin.rw, false, n⟩, pend := none, phase := .setup, min := s.cfg.tSuMin, elapsed := 0,
      trace := s.trace ++ s.pin.changeTo ⟨s.pin.rs, s.pin.rw, false, n⟩ s.now }

/-- SET_CTRL (R130): RS takes its field, E and RW are low, the data lines, the phase and the time
stay, and the trace has no event. That RS = 1 is
allowed is the spec's extension (93_implementation_defined.md I4, log entry 12). The entry of the trace, one for the three drives, and
none where no level changes, is the model's reading of R28 (log entries 8 and 21). -/
def Obligations.SetCtrlForcesTheControlLines : Prop :=
  ∀ (rs : Bool) (s : State), s.phase = .idle →
    exec (.setCtrl rs) s = .next { s with
      pin := ⟨rs, false, false, s.pin.d⟩,
      trace := s.trace ++ s.pin.changeTo ⟨rs, false, false, s.pin.d⟩ s.now }

/-- WAIT with a count other than 0 (R131): the wait phase of `ms` units; nothing else changes. -/
def Obligations.WaitStartsItsPhase : Prop :=
  ∀ (ms : WaitCount) (s : State), s.phase = .idle → ms ≠ 0 →
    exec (.wait ms) s = .next { s with phase := .wait, min := ms.toNat * s.cfg.waitUnit, elapsed := 0 }

/-- R133: `WAIT 0` is accepted, leaves every field of the state unchanged and NSER ready at once. -/
def Obligations.WaitZeroChangesNothing : Prop :=
  decode 0xC000 = .request (.wait 0) ∧
  ∀ s : State, s.phase = .idle → exec (.wait 0) s = .next s ∧ s.readyO = true

/-- The payload requests (R150 to R158) at acceptance: each is the SEND_BYTE of its byte. -/
def Obligations.PayloadRequestsStartTheirByte : Prop :=
  ∀ s : State, s.phase = .idle →
    exec .clear s = .next (s.startByte false 0x01) ∧
    exec .home s = .next (s.startByte false 0x02) ∧
    (∀ id sh, exec (.entry id sh) s = .next (s.startByte false (0x04 ||| optionBit id <<< 1 ||| optionBit sh))) ∧
    (∀ d c b, exec (.dispctl d c b) s =
      .next (s.startByte false (0x08 ||| optionBit d <<< 2 ||| optionBit c <<< 1 ||| optionBit b))) ∧
    (∀ sc rl, exec (.shift sc rl) s = .next (s.startByte false (0x10 ||| optionBit sc <<< 3 ||| optionBit rl <<< 2))) ∧
    (∀ dl n f, exec (.funcset dl n f) s =
      .next (s.startByte false (0x20 ||| optionBit dl <<< 4 ||| optionBit n <<< 3 ||| optionBit f <<< 2))) ∧
    (∀ a, exec (.setcgram a) s = .next (s.startByte false (0x40 ||| a.setWidth 8))) ∧
    (∀ a, exec (.setddram a) s = .next (s.startByte false (0x80 ||| a.setWidth 8))) ∧
    (∀ v, exec (.putc v) s = .next (s.startByte true v))

/-- The initialization nibbles (R83) at acceptance: each is the SEND_NIBBLE of its value. -/
def Obligations.InitNibblesStartTheirStrobe : Prop :=
  ∀ s : State, s.phase = .idle →
    exec .initReset8 s = .next (s.startNibble 0x3) ∧ exec .initSwitch4 s = .next (s.startNibble 0x2)

/-- R31: while a request is in progress no instruction has an effect. -/
def Obligations.BusyHoldsEveryRequest : Prop := ∀ (i : Instr) (s : State), s.phase ≠ .idle → exec i s = .next s

/-- R80, R83: an instruction acts as the request that carries it, whatever its name (log entry 9). -/
def Obligations.NamedRequestsActAsTheirCarrier : Prop := ∀ (i : Instr) (s : State), exec i s = exec i.core s

/-- Frame of the requests that send one nibble (R100, R113): RS, RW, the error, the times, the events of the trace, the parameters,
the host's lines and the schedule stay, and the trace only grows. The events are the trace without its pin-level changes (log entry
8). -/
def Obligations.FrameOfNibbleRequests : Prop :=
  ∀ (i : Instr) (s t : State), (∃ n, i = .sendNibble n) ∨ i = .initReset8 ∨ i = .initSwitch4 → exec i s = .next t →
    t.pin.rs = s.pin.rs ∧ t.pin.rw = s.pin.rw ∧ t.err = s.err ∧ t.now = s.now ∧ t.tRise = s.tRise ∧
    t.events = s.events ∧ s.trace <+: t.trace ∧
    t.cfg = s.cfg ∧ t.reqValid = s.reqValid ∧ t.reqWord = s.reqWord ∧ t.rst = s.rst ∧ t.stream = s.stream ∧
    t.sched = s.sched ∧ t.draws = s.draws

/-- Frame of the requests that send a byte (R101, R113): the error, the times, the events of the trace, the parameters, the host's
lines and the schedule stay, and the trace only grows. The events are the trace without its pin-level changes (log entry 8). -/
def Obligations.FrameOfByteRequests : Prop :=
  ∀ (i : Instr) (s t : State), (∃ rs v, i = .sendByte rs v) ∨ i = .clear ∨ i = .home ∨ (∃ id sh, i = .entry id sh) ∨
      (∃ d c b, i = .dispctl d c b) ∨ (∃ sc rl, i = .shift sc rl) ∨ (∃ dl n f, i = .funcset dl n f) ∨
      (∃ a, i = .setcgram a) ∨ (∃ a, i = .setddram a) ∨ (∃ v, i = .putc v) → exec i s = .next t →
    t.err = s.err ∧ t.now = s.now ∧ t.tRise = s.tRise ∧ t.events = s.events ∧ s.trace <+: t.trace ∧ t.cfg = s.cfg ∧
    t.reqValid = s.reqValid ∧ t.reqWord = s.reqWord ∧ t.rst = s.rst ∧ t.stream = s.stream ∧ t.sched = s.sched ∧
    t.draws = s.draws

/-- Frame of the control requests: SET_CTRL (R130) changes only RS, RW and E; WAIT (R131) changes no pin; neither changes the
pending nibble, the error, the times, the events of the trace, the parameters, the host's lines or the schedule, and the trace only
grows (under WAIT it stays). The events are the trace without its pin-level changes (log entry 8). SET_CTRL with RS = 1 is the spec's extension (93_implementation_defined.md I4, log entry 12). -/
def Obligations.FrameOfControlRequests : Prop :=
  (∀ (rs : Bool) (s t : State), exec (.setCtrl rs) s = .next t →
    t.pin.d = s.pin.d ∧ t.phase = s.phase ∧ t.min = s.min ∧ t.elapsed = s.elapsed) ∧
  (∀ (ms : WaitCount) (s t : State), exec (.wait ms) s = .next t → t.pin = s.pin ∧ t.trace = s.trace) ∧
  (∀ (i : Instr) (s t : State), (∃ rs, i = .setCtrl rs) ∨ (∃ ms, i = .wait ms) → exec i s = .next t →
    t.pend = s.pend ∧ t.err = s.err ∧ t.now = s.now ∧ t.tRise = s.tRise ∧ t.events = s.events ∧ s.trace <+: t.trace ∧
    t.cfg = s.cfg ∧
    t.reqValid = s.reqValid ∧ t.reqWord = s.reqWord ∧ t.rst = s.rst ∧ t.stream = s.stream ∧ t.sched = s.sched ∧
    t.draws = s.draws)

/-! ## The strobe engine and time -/

/-- `begin_nibble(n)` (R102) on every field; and E is low already in the phases in which it is called. The pin-level change in the
trace, and none where no level changes, is the model's reading of R28 (log entry 8). -/
def Obligations.BeginNibbleStartsSetup : Prop :=
  (∀ (s : State) (n : Nibble), s.beginNibble n = { s with
    pin := ⟨s.pin.rs, s.pin.rw, false, n⟩, phase := .setup, min := s.cfg.tSuMin, elapsed := 0,
    trace := s.trace ++ s.pin.changeTo ⟨s.pin.rs, s.pin.rw, false, n⟩ s.now }) ∧
  (∀ s : State, Inv s → s.phase = .idle ∨ s.phase = .settle → s.pin.e = false)

/-- R21 and R117: a nibble's bit i is driven on line D(4+i), and all four lines change at once: the levels recorded go from the
old ones to the new ones in one entry, and there is no entry when no level changes, which is the model's reading of R28 (log entry 8). -/
def Obligations.DataLinesChangeAtOnce : Prop :=
  ∀ (s : State) (n : Nibble), (∀ i : Fin 4, (s.beginNibble n).pin.dataLine i = n.getLsbD i.val) ∧
    ((s.beginNibble n).trace = s.trace ∧ (s.beginNibble n).pin = s.pin ∨
      (s.beginNibble n).trace = s.trace ++ [.pinChange (s.beginNibble n).pin s.now] ∧ (s.beginNibble n).pin ≠ s.pin)

/-- End of SETUP (R103): E rises, the time of the edge is recorded, PULSE begins, and nothing else changes but the trace, which gains
the pin-level change (the model's reading of R28, log entry 8); enabled, not forced: time may pass instead. -/
def Obligations.SetupEndsWithTheRisingEdge : Prop :=
  (∀ (s : State) (ms : List Move), s.rst = false → s.sched = .act :: ms → s.phase = .setup → s.min ≤ s.elapsed →
    step s = .next { s with
      sched := ms, pin := ⟨s.pin.rs, s.pin.rw, true, s.pin.d⟩, tRise := s.now, phase := .pulse, min := s.cfg.tPwMin,
      elapsed := 0, trace := s.trace ++ s.pin.changeTo ⟨s.pin.rs, s.pin.rw, true, s.pin.d⟩ s.now }) ∧
  (∀ (s : State) (k : Nat) (ms : List Move), s.rst = false → s.sched = .pass k :: ms → s.phase = .setup →
    s.min ≤ s.elapsed → ∃ t, step s = .next t ∧ t.phase = .setup ∧ t.pin = s.pin ∧ t.elapsed = s.elapsed + (k + 1))

/-- End of PULSE (R105): E falls, the transfer of the levels on the bus is recorded with both edges, SETTLE begins; nothing else
changes but the trace, which gains the pin-level change before the transfer (the model's reading of R28, log entry 8). -/
def Obligations.PulseEndsWithTheTransfer : Prop :=
  ∀ (s : State) (ms : List Move), s.rst = false → s.sched = .act :: ms → s.phase = .pulse → s.min ≤ s.elapsed →
    step s = .next { s with
      sched := ms, pin := ⟨s.pin.rs, s.pin.rw, false, s.pin.d⟩,
      trace := s.trace ++ s.pin.changeTo ⟨s.pin.rs, s.pin.rw, false, s.pin.d⟩ s.now ++
        [.xfer s.pin.rs s.pin.rw s.pin.d s.tRise s.now],
      phase := .settle, min := s.cfg.tSettleMin, elapsed := 0 }

/-- End of SETTLE (R104): the pending low nibble's strobe under the same RS and RW, or IDLE; nothing else changes but the trace,
which under a pending nibble gains the pin-level change (the model's reading of R28, log entry 8). -/
def Obligations.SettleEndsWithTheLowNibbleOrIdle : Prop :=
  (∀ (s : State) (ms : List Move) (lo : Nibble), s.rst = false → s.sched = .act :: ms → s.phase = .settle →
    s.min ≤ s.elapsed → s.pend = some lo →
    step s = .next { s with
      sched := ms, pend := none, pin := ⟨s.pin.rs, s.pin.rw, false, lo⟩, phase := .setup, min := s.cfg.tSuMin,
      elapsed := 0, trace := s.trace ++ s.pin.changeTo ⟨s.pin.rs, s.pin.rw, false, lo⟩ s.now }) ∧
  (∀ (s : State) (ms : List Move), s.rst = false → s.sched = .act :: ms → s.phase = .settle → s.min ≤ s.elapsed →
    s.pend = none → step s = .next { s with sched := ms, phase := .idle, min := 0, elapsed := 0 })

/-- End of WAIT (R132), which like every phase may last longer than its minimum. -/
def Obligations.WaitEndsInIdle : Prop :=
  (∀ (s : State) (ms : List Move), s.rst = false → s.sched = .act :: ms → s.phase = .wait → s.min ≤ s.elapsed →
    step s = .next { s with sched := ms, phase := .idle, min := 0, elapsed := 0 }) ∧
  (∀ (s : State) (k : Nat) (ms : List Move), s.rst = false → s.sched = .pass k :: ms → s.phase = .wait →
    s.min ≤ s.elapsed → ∃ t, step s = .next t ∧ t.phase = .wait ∧ t.pin = s.pin ∧ t.elapsed = s.elapsed + (k + 1))

/-- R26: a phase other than IDLE never ends before its minimum has passed, whatever the next move; only reset cuts it. -/
def Obligations.NoPhaseEndsBeforeItsMinimum : Prop :=
  ∀ s t : State, s.rst = false → s.phase ≠ .idle → s.elapsed < s.min → step s = .next t →
    t.phase = s.phase ∧ t.min = s.min ∧ s.elapsed ≤ t.elapsed ∧ t.pin = s.pin ∧ t.pend = s.pend ∧ t.trace = s.trace

/-- R106: time passes by any δ ≥ 1 in every phase and counts into the phase unless IDLE, changing nothing else; the steps that
NSER takes of itself take no time; and every duration at or above the minimum is one a phase can have. -/
def Obligations.TimePassesFreely : Prop :=
  (∀ (s : State) (k : Nat) (ms : List Move), s.rst = false → s.sched = .pass k :: ms →
    step s = .next { s with
      sched := ms, now := s.now + (k + 1), elapsed := if s.phase ≠ .idle then s.elapsed + (k + 1) else s.elapsed }) ∧
  (∀ (s t : State) (ms : List Move), s.rst = false → s.sched = .act :: ms → step s = .next t → t.now = s.now) ∧
  (∀ (s : State) (d : Nat) (ms : List Move), s.rst = false → s.phase ≠ .idle → s.elapsed = 0 → 1 ≤ d → s.min ≤ d →
    s.sched = .pass (d - 1) :: .act :: ms →
    ∃ t, run 2 s = .next t ∧ t = ({ s with sched := ms, now := s.now + d, elapsed := d } : State).endPhase ∧
      t.now = s.now + d)

/-! ## The step -/

/-- A step on a presented word that decodes to a well-formed instruction, in IDLE with the move NSER's own, is that instruction
run on the state with the word taken and the move used up. -/
def Obligations.StepRunsTheDecodedRequest : Prop :=
  ∀ (s : State) (ms : List Move) (i : Instr), s.rst = false → s.sched = .act :: ms → s.phase = .idle →
    s.reqValid = true → decode s.reqWord = .request i → i.wellFormed = true →
    step s = exec i { s with sched := ms, reqValid := false }

/-- IllegalRequest (R181): an accepted illegal word sets the error and is recorded; nothing else changes but that the word is
taken. A SEND_BYTE or SET_CTRL word with RW = 1 is illegal. -/
def Obligations.IllegalWordSetsTheErrorOnly : Prop :=
  (∀ (s : State) (ms : List Move), s.rst = false → s.sched = .act :: ms → s.phase = .idle → s.reqValid = true →
    isLegal s.reqWord = false →
    step s = .next { s with
      sched := ms, reqValid := false, err := true, trace := s.trace ++ [.illegalEv s.reqWord s.now] }) ∧
  (∀ w : ReqWord, w.extractLsb' 14 2 = 0b00 ∨ w.extractLsb' 14 2 = 0b10 → w.getLsbD 9 = true → isLegal w = false)

/-- R182: without a reset the error, once set, stays, and it is set by accepting an illegal word and by nothing else. -/
def Obligations.ErrorIsSticky : Prop :=
  ∀ s t : State, s.rst = false → step s = .next t →
    (t.err = true ↔ s.err = true ∨
      (s.nextMove = .act ∧ s.phase = .idle ∧ s.reqValid = true ∧ isLegal s.reqWord = false))

/-- R31: the presented word is taken exactly when it is presented in IDLE and NSER makes its own move; while NSER is busy it stays
presented, unchanged, whatever happens. That acceptance waits for NSER's own move is the model's reading (log entry 3). -/
def Obligations.AcceptsExactlyInIdle : Prop :=
  (∀ s t : State, s.rst = false → step s = .next t →
    ((s.reqValid = true ∧ t.reqValid = false) ↔ (s.reqValid = true ∧ s.nextMove = .act ∧ s.phase = .idle))) ∧
  (∀ s t : State, s.rst = false → s.phase ≠ .idle → s.reqValid = true → step s = .next t →
    t.reqValid = true ∧ t.reqWord = s.reqWord)

/-- R22: no line changes its level but by an accepted request, the end of a phase whose minimum has passed, or reset. -/
def Obligations.LinesChangeOnlyWhenDriven : Prop :=
  ∀ s t : State, step s = .next t → t.pin ≠ s.pin →
    s.rst = true ∨
    (s.nextMove = .act ∧
      ((s.phase = .idle ∧ s.reqValid = true ∧ isLegal s.reqWord = true) ∨ (s.phase ≠ .idle ∧ s.min ≤ s.elapsed)))

/-- R63: a word is read once, at acceptance; what stands on the word lines when none is presented has no effect. -/
def Obligations.WordIsReadOnlyWhenPresented : Prop :=
  ∀ (s t : State) (w : ReqWord), s.reqValid = false → step s = .next t →
    ∃ t', step { s with reqWord := w } = .next t' ∧ { t' with reqWord := t.reqWord } = t ∧
      (t.reqValid = true → t'.reqWord = t.reqWord)

/-- R180: no event stops the machine, so every step answers a next state; in it time has not gone back (R106: time only advances;
R200: reset does not rewind it), and the parameters of R6 are the same, which is the model's choice (log entry 2). -/
def Obligations.EveryStepAnswersANextState : Prop :=
  ∀ s : State, ∃ t, step s = .next t ∧ t.cfg = s.cfg ∧ s.now ≤ t.now

/-! ## Invariants -/

/-- The invariant of NSER's fields, the timing invariant and the invariant of the levels hold at reset. -/
def Obligations.InvariantsHoldAtReset : Prop := Inv State.reset ∧ TimingInv State.reset ∧ LevelInv State.reset

/-- R23, R26, R115 and the phase minimums: every step keeps the invariant of NSER's fields. -/
def Obligations.StepKeepsTheFieldInvariant : Prop := ∀ s t : State, Inv s → step s = .next t → Inv t

/-- R107, R109: every step keeps the timing invariant. -/
def Obligations.StepKeepsTheTimingInvariant : Prop :=
  ∀ s t : State, Inv s → TimingInv s → step s = .next t → TimingInv t

/-- R108: every step keeps the invariant of the levels. -/
def Obligations.StepKeepsTheLevelInvariant : Prop :=
  ∀ s t : State, Inv s → TimingInv s → LevelInv s → step s = .next t → LevelInv t

/-- R108 and R109 after any run from any state with the invariants: in the window of every transfer that no reset cuts, RS, RW
and D hold its levels and E is high exactly in the pulse; and transfers with no reset between them are at least
`T_SETTLE_MIN + T_SU_MIN` apart. R109 does not name a reset; that the spacing is claimed only with none between is read from R201,
by which a reset ends a settle early (log entry 34). -/
def Obligations.RunsHoldLevelsAndSpacing : Prop :=
  ∀ (k : Nat) (s t : State), Inv s → TimingInv s → LevelInv s → run k s = .next t →
    (∀ l m rs rw n a b, t.trace = l ++ Event.xfer rs rw n a b :: m →
      (∀ r, Event.reset r ∈ m → b + t.cfg.tSettleMin ≤ r) →
      ∀ u, a ≤ u + t.cfg.tSuMin → u < b + t.cfg.tSettleMin → u < t.now →
        (levelsAt t.trace u).rs = rs ∧ (levelsAt t.trace u).rw = rw ∧ (levelsAt t.trace u).d = n ∧
        ((levelsAt t.trace u).e = true ↔ a ≤ u ∧ u < b)) ∧
    (∀ l m r rs rw n a b rs' rw' n' a' b',
      t.trace = l ++ Event.xfer rs rw n a b :: (m ++ Event.xfer rs' rw' n' a' b' :: r) → NoReset m →
      b + t.cfg.tSettleMin + t.cfg.tSuMin ≤ a')

/-- R23 and R115 after any run from any state with the invariant: RW is 0, and E is 1 exactly in PULSE, so 0 in every other
phase. -/
def Obligations.RunsKeepRwLowAndEnableInPulseOnly : Prop :=
  ∀ (k : Nat) (s t : State), Inv s → run k s = .next t →
    t.pin.rw = false ∧ (t.pin.e = true ↔ t.phase = .pulse) ∧
    (t.phase = .idle ∨ t.phase = .setup ∨ t.phase = .settle ∨ t.phase = .wait → t.pin.e = false)

/-! ## Whole requests and streams -/

/-- Without a reset, every step keeps the error that the requests end with (R182); and, with R182's premise that it is 0 (log entry
33), the transfers made and still to come, in their order (R60, R111, R114), and the levels at the end (R22). -/
def Obligations.StepKeepsWhatTheRequestsOwe : Prop :=
  ∀ s t : State, Inv s → s.rst = false → step s = .next t →
    t.endErr = s.endErr ∧
    (s.endErr = false → transfers t.trace ++ t.owed = transfers s.trace ++ s.owed ∧ t.endLevels = s.endLevels)

/-- Without a reset, and with R182's premise that the requests end with no error (log entry 33), no step brings their earliest end
nearer than it was (R110, R230). -/
def Obligations.StepNeverShortensTheMinimum : Prop :=
  ∀ s t : State, Inv s → s.rst = false → s.endErr = false → step s = .next t → s.now + s.remaining ≤ t.now + t.remaining

/-- Any schedule without a reset that performs every request ends with the owed error; and, with R182's premise that the error is 0
at the end, it makes exactly the owed transfers, in order, ends with the owed levels, and takes at least the minimum (R60, R110, R114,
R230). -/
def Obligations.CompletedRunsMakeExactlyTheOwedTransfers : Prop :=
  ∀ (k : Nat) (s t : State), Inv s → s.rst = false → k ≤ s.sched.length → (∀ m ∈ s.sched, m ≠ .assertReset) →
    run k s = .next t → t.done →
    t.err = s.endErr ∧
    (t.noError →
      transfers t.trace = transfers s.trace ++ s.owed ∧ t.pin.lines = s.endLevels ∧ s.now + s.remaining ≤ t.now)

/-- R230: which transfers occur, their order and content do not depend on any duration: two schedules that perform the same
requests end with the same error; and, with R182's premise that it is 0, they make the same transfers and end with the same levels. -/
def Obligations.TransfersDoNotDependOnDurations : Prop :=
  ∀ (k k' : Nat) (s t t' : State) (ms ms' : List Move), Inv s → s.rst = false →
    k ≤ ms.length → k' ≤ ms'.length → (∀ m ∈ ms, m ≠ .assertReset) → (∀ m ∈ ms', m ≠ .assertReset) →
    run k { s with sched := ms } = .next t → run k' { s with sched := ms' } = .next t' → t.done → t'.done →
    t.err = t'.err ∧ (t.noError → transfers t.trace = transfers t'.trace ∧ t.pin = t'.pin)

/-- R180: every legal request completes: from every state with the invariant, no reset and, as R182's premise, requests that end
with no error (log entry 33), there is a schedule without a reset that performs every request, ends with no error, takes exactly the
minimum and makes exactly the owed transfers. -/
def Obligations.EveryStreamCanComplete : Prop :=
  ∀ s : State, Inv s → s.rst = false → s.endErr = false →
    ∃ (ms : List Move) (t : State), (∀ m ∈ ms, m ≠ .assertReset) ∧ run ms.length { s with sched := ms } = .next t ∧
      t.done ∧ t.noError ∧ t.now = s.now + s.remaining ∧ transfers t.trace = transfers s.trace ++ s.owed

/-- R213 and R214: the end state, the 16 transfers and the least time of the initialization sequence, from any IDLE state with the
invariant and no error, by every schedule without a reset that performs it whole. -/
def Obligations.InitializationEndsInItsState : Prop :=
  ∀ (k : Nat) (s t : State), Inv s → s.rst = false → s.phase = .idle → s.noError → s.reqValid = false →
    s.stream = words initStream → k ≤ s.sched.length → (∀ m ∈ s.sched, m ≠ .assertReset) → run k s = .next t → t.done →
    t.pin.rs = false ∧ t.pin.rw = false ∧ t.pin.e = false ∧ t.pin.d = 0x2 ∧ t.phase = .idle ∧ t.pend = none ∧
    t.err = false ∧
    transfers t.trace = transfers s.trace ++
      ([0x3, 0x3, 0x3, 0x2, 0x2, 0x8, 0x0, 0x8, 0x0, 0x1, 0x0, 0x6, 0x0, 0xF, 0x0, 0x2] : List Nibble).map
        (fun n => (⟨false, false, n⟩ : Lines)) ∧
    s.now + (500 * s.cfg.waitUnit + 4 * strobeTime s.cfg + 6 * (2 * strobeTime s.cfg) + (8 * 10 + 2) * s.cfg.waitUnit) ≤
      t.now ∧
    (s.cfg = Config.default → s.now + 1222656000 ≤ t.now)

/-- R114: the number of transfers of a stream of legal words (R182, log entry 33) is the number of its SEND_NIBBLE words and twice
that of its SEND_BYTE words. -/
def Obligations.StreamTransferCount : Prop :=
  ∀ (rs rw : Bool) (ws : List ReqWord), (∀ w ∈ ws, isLegal w = true) → (streamLines rs rw ws).length =
    ws.countP (fun w => match decodeCore w with | .request (.sendNibble _) => true | _ => false) +
    2 * ws.countP (fun w => match decodeCore w with | .request (.sendByte _ _) => true | _ => false)

/-- A SEND_NIBBLE from acceptance to IDLE, for every duration of its three phases at or above the minimum (R100, R106, R110).
The events are the trace without its pin-level changes (log entry 8). -/
def Obligations.SendNibbleRunsToIdle : Prop :=
  ∀ (s : State) (i : Instr) (n : Nibble) (d₁ d₂ d₃ : Nat) (ms : List Move), s.rst = false → s.phase = .idle →
    s.reqValid = true → decode s.reqWord = .request i → i.core = .sendNibble n →
    s.cfg.tSuMin ≤ d₁ + 1 → s.cfg.tPwMin ≤ d₂ + 1 → s.cfg.tSettleMin ≤ d₃ + 1 →
    s.sched = .act :: .pass d₁ :: .act :: .pass d₂ :: .act :: .pass d₃ :: .act :: ms →
    ∃ t, run 7 s = .next t ∧ t.phase = .idle ∧ t.pend = none ∧ t.err = s.err ∧
      t.now = s.now + (d₁ + 1) + (d₂ + 1) + (d₃ + 1) ∧ s.now + strobeTime s.cfg ≤ t.now ∧
      t.pin = ⟨s.pin.rs, s.pin.rw, false, n⟩ ∧
      t.events = s.events ++ [.xfer s.pin.rs s.pin.rw n (s.now + (d₁ + 1)) (s.now + (d₁ + 1) + (d₂ + 1))]

/-- A SEND_BYTE from acceptance to IDLE, for every duration of its six phases at or above the minimum: two transfers, high nibble
first, under one RS and RW = 0, from which the byte is recovered (R101, R106, R110, R112). The events are the trace without
its pin-level changes (log entry 8). -/
def Obligations.SendByteRunsToIdle : Prop :=
  ∀ (s : State) (i : Instr) (rs : Bool) (v : Byte) (d₁ d₂ d₃ d₄ d₅ d₆ : Nat) (ms : List Move), s.rst = false →
    s.phase = .idle → s.reqValid = true → decode s.reqWord = .request i → i.core = .sendByte rs v →
    s.cfg.tSuMin ≤ d₁ + 1 → s.cfg.tPwMin ≤ d₂ + 1 → s.cfg.tSettleMin ≤ d₃ + 1 →
    s.cfg.tSuMin ≤ d₄ + 1 → s.cfg.tPwMin ≤ d₅ + 1 → s.cfg.tSettleMin ≤ d₆ + 1 →
    s.sched = .act :: .pass d₁ :: .act :: .pass d₂ :: .act :: .pass d₃ :: .act ::
      .pass d₄ :: .act :: .pass d₅ :: .act :: .pass d₆ :: .act :: ms →
    ∃ (t : State) (hi lo : Nibble), run 13 s = .next t ∧ hi ++ lo = v ∧ hi.toNat * 16 + lo.toNat = v.toNat ∧
      t.phase = .idle ∧ t.pend = none ∧ t.err = s.err ∧
      t.now = s.now + (d₁ + 1) + (d₂ + 1) + (d₃ + 1) + (d₄ + 1) + (d₅ + 1) + (d₆ + 1) ∧
      s.now + 2 * strobeTime s.cfg ≤ t.now ∧
      t.pin = ⟨rs, false, false, lo⟩ ∧
      t.events = s.events ++
        [.xfer rs false hi (s.now + (d₁ + 1)) (s.now + (d₁ + 1) + (d₂ + 1)),
         .xfer rs false lo (s.now + (d₁ + 1) + (d₂ + 1) + (d₃ + 1) + (d₄ + 1))
           (s.now + (d₁ + 1) + (d₂ + 1) + (d₃ + 1) + (d₄ + 1) + (d₅ + 1))]

/-- A WAIT from acceptance to IDLE, for every duration at or above its count (R131, R132). -/
def Obligations.WaitRunsToIdle : Prop :=
  ∀ (s : State) (m : WaitCount) (d : Nat) (ms : List Move), s.rst = false → s.phase = .idle → s.reqValid = true →
    decode s.reqWord = .request (.wait m) → m ≠ 0 → m.toNat * s.cfg.waitUnit ≤ d + 1 →
    s.sched = .act :: .pass d :: .act :: ms →
    run 3 s = .next { s with reqValid := false, sched := ms, phase := .idle, min := 0, elapsed := 0, now := s.now + (d + 1) }

/-- R54: a SEND_BYTE leaves the machine exactly as the SET_CTRL of its RS and the two SEND_NIBBLEs of its nibbles would, in the
same phases' durations; only the word left on the host's lines differs. The error at the end is the same, and the rest is claimed
with R182's premise that it is 0 (log entry 33). For RS = 1 it rests on the SET_CTRL with RS = 1, which is the
spec's extension beyond the source (93_implementation_defined.md I4, log entry 12). That the pin-level changes in the trace are the
same too rests on log entries 8 and 21. -/
def Obligations.ByteIsTwoNibblesUnderItsRs : Prop :=
  ∀ (s : State) (rs : Bool) (v : Byte) (d₁ d₂ d₃ d₄ d₅ d₆ : Nat), Inv s → s.rst = false → s.phase = .idle →
    s.reqValid = false →
    s.cfg.tSuMin ≤ d₁ + 1 → s.cfg.tPwMin ≤ d₂ + 1 → s.cfg.tSettleMin ≤ d₃ + 1 →
    s.cfg.tSuMin ≤ d₄ + 1 → s.cfg.tPwMin ≤ d₅ + 1 → s.cfg.tSettleMin ≤ d₆ + 1 →
    ∃ t t',
      run 14 { s with
        stream := words [.sendByte rs v],
        sched := [.present, .act, .pass d₁, .act, .pass d₂, .act, .pass d₃, .act, .pass d₄, .act, .pass d₅, .act, .pass d₆,
          .act] } = .next t ∧
      run 18 { s with
        stream := words [.setCtrl rs, .sendNibble (hiNibble v), .sendNibble (loNibble v)],
        sched := [.present, .act, .present, .act, .pass d₁, .act, .pass d₂, .act, .pass d₃, .act, .present, .act, .pass d₄,
          .act, .pass d₅, .act, .pass d₆, .act] } = .next t' ∧
      t.err = t'.err ∧ (t.noError → t = { t' with reqWord := t.reqWord })

/-- R230 and R110: the least times of the requests at the source's parameters. SET_CTRL with RS = 1 is the spec's extension
(93_implementation_defined.md I4, log entry 12). -/
def Obligations.MinimumDurationsAtTheDefaults : Prop :=
  (∀ n, (Instr.sendNibble n).minTime Config.default = 40041000) ∧
  (∀ rs v, (Instr.sendByte rs v).minTime Config.default = 80082000) ∧
  (∀ rs, (Instr.setCtrl rs).minTime Config.default = 0) ∧
  (∀ ms, (Instr.wait ms).minTime Config.default = ms.toNat * 1000000)

/-- R162: programming a character is 9 requests and 18 transfers: the address instruction under RS = 0, then the eight rows under
RS = 1, top row first, high nibble first; and no request for an index of 8 or more. -/
def Obligations.CharacterProgrammingStream : Prop :=
  ∀ (index : Nat) (pattern : Vector Byte 8) (rs rw : Bool),
    (index < 8 →
      words (setCgCharacter index pattern) =
        BitVec.ofNat 16 (0x40 ||| index * 8) :: pattern.toList.map (fun b => 0x0100 ||| b.setWidth 16) ∧
      (words (setCgCharacter index pattern)).length = 9 ∧
      streamLines rs rw (words (setCgCharacter index pattern)) =
        [⟨false, false, BitVec.ofNat 4 (4 + index / 2)⟩, ⟨false, false, BitVec.ofNat 4 (index % 2 * 8)⟩] ++
        (pattern.toList.flatMap fun b => [⟨true, false, hiNibble b⟩, ⟨true, false, loNibble b⟩]) ∧
      (streamLines rs rw (words (setCgCharacter index pattern))).length = 18) ∧
    (8 ≤ index → words (setCgCharacter index pattern) = [])

/-- R161, R163 to R167: the words of the host's other operations. Whether a text is accepted is the firmware's answer (log entry
22). -/
def Obligations.OperationStreams : Prop :=
  (∀ text : List Byte, words (writeAscii true text) = text.map (fun b => 0x0100 ||| b.setWidth 16) ∧
    words (writeAscii false text) = []) ∧
  (∀ a : Byte, a ≤ 0x80 → words (setCursorPos a) = [(0x80 ||| a).setWidth 16]) ∧
  (∀ a : Byte, 0x80 < a → words (setCursorPos a) = []) ∧
  words (setCursorPos 0x80) = words (setCursorPos 0x00) ∧
  words shiftDisplayLeft = [0x0018] ∧ words shiftDisplayRight = [0x001C] ∧ words resetDisplay = [0x0001] ∧
  (∀ d c b, words (toggle d c b) = [(dispctlByte d c b).setWidth 16]) ∧
  words returnHome = [0x0002, 0xC002]
end

