-- ==== Sys2Proof/Laws/Decode.lean ====
section
/-! SUPPORT. The words of the four requests as numbers, and the five ways a word can decode: the decoder and the encoder are
unfolded here once. -/

namespace Sys2Proof

/-! ### The words of the four requests as numbers -/

theorem encode_sendByte_toNat (rs : Bool) (v : Byte) : (encode (.sendByte rs v)).toNat = rs.toNat * 256 + v.toNat := by
  have h : (encode (.sendByte rs v)).toNat = (BitVec.ofBool rs ++ v : BitVec (1 + 8)).toNat := by
    revert rs v; decide +kernel
  rw [h, BitVec.toNat_append, Nat.shiftLeft_eq, BitVec.toNat_ofBool, Nat.mul_comm, ← Nat.two_pow_add_eq_or_of_lt v.isLt]

theorem encode_sendNibble_toNat (n : Nibble) : (encode (.sendNibble n)).toNat = 16384 + n.toNat := by
  revert n; decide +kernel

theorem encode_setCtrl_toNat (rs : Bool) : (encode (.setCtrl rs)).toNat = 32768 + rs.toNat * 256 := by
  revert rs; decide +kernel

theorem encode_wait_toNat (ms : WaitCount) : (encode (.wait ms)).toNat = 49152 + ms.toNat := by
  have h : (encode (.wait ms)).toNat = (0b11#2 ++ ms : BitVec (2 + 14)).toNat := rfl
  rw [h, BitVec.toNat_append, Nat.shiftLeft_eq, Nat.mul_comm, ← Nat.two_pow_add_eq_or_of_lt ms.isLt]
  rfl

/-! ### The decoder -/

/-- A field of a word as a number. -/
theorem field_toNat (w : ReqWord) (lo n : Nat) : (w.extractLsb' lo n).toNat = w.toNat / 2 ^ lo % 2 ^ n := by
  rw [BitVec.extractLsb'_toNat, Nat.shiftRight_eq_div_pow]

/-- Bit 8 of a word, as a number. -/
theorem bit8_toNat (w : ReqWord) : (w.getLsbD 8).toNat = w.toNat / 256 % 2 := by
  rw [BitVec.getLsbD, Nat.testBit_eq_decide_div_mod_eq]
  have : w.toNat / 2 ^ 8 % 2 < 2 := Nat.mod_lt _ (by decide)
  rcases Nat.lt_succ_iff_lt_or_eq.mp this with h | h <;> simp at h ⊢ <;> simp [h]

/-- The five ways a word can decode (R76): one of the four requests, whose word it then is, or illegal. -/
theorem decodeCore_cases (w : ReqWord) :
    (∃ rs v, w = encode (.sendByte rs v) ∧ decodeCore w = .request (.sendByte rs v)) ∨
    (∃ n, w = encode (.sendNibble n) ∧ decodeCore w = .request (.sendNibble n)) ∨
    (∃ rs, w = encode (.setCtrl rs) ∧ decodeCore w = .request (.setCtrl rs)) ∨
    (∃ ms, w = encode (.wait ms) ∧ decodeCore w = .request (.wait ms)) ∨
    decodeCore w = .illegal w := by
  have hw := w.isLt
  have num : ∀ {lo n k : Nat}, w.extractLsb' lo n = BitVec.ofNat n k → k < 2 ^ n → w.toNat / 2 ^ lo % 2 ^ n = k := by
    intro lo n k h hk
    rw [← field_toNat, h, BitVec.toNat_ofNat, Nat.mod_eq_of_lt hk]
  unfold decodeCore
  split
  · rename_i h1
    split
    · rename_i h2
      refine .inl ⟨_, _, BitVec.eq_of_toNat_eq ?_, rfl⟩
      have h1 := num h1 (by decide); have h2 := num h2 (by decide)
      rw [encode_sendByte_toNat, bit8_toNat, field_toNat]
      simp only [Nat.reducePow, Nat.div_one] at *; omega
    · simp
  · rename_i h0
    split
    · rename_i h1
      split
      · rename_i h2
        refine .inr (.inl ⟨_, BitVec.eq_of_toNat_eq ?_, rfl⟩)
        have h1 := num h1 (by decide); have h2 := num h2 (by decide)
        rw [encode_sendNibble_toNat, field_toNat]
        simp only [Nat.reducePow, Nat.div_one] at *; omega
      · simp
    · rename_i h1'
      split
      · rename_i h1
        split
        · rename_i h2
          refine .inr (.inr (.inl ⟨_, BitVec.eq_of_toNat_eq ?_, rfl⟩))
          have h1 := num h1 (by decide); have h2' := num h2.2 (by decide); have h2 := num h2.1 (by decide)
          rw [encode_setCtrl_toNat, bit8_toNat]
          simp only [Nat.reducePow, Nat.div_one] at *; omega
        · simp
      · rename_i h1
        refine .inr (.inr (.inr (.inl ⟨_, BitVec.eq_of_toNat_eq ?_, rfl⟩)))
        have key : ∀ k : Nat, k < 4 → w.extractLsb' 14 2 ≠ BitVec.ofNat 2 k → w.toNat / 2 ^ 14 % 2 ^ 2 ≠ k := by
          intro k hk h he
          exact h (BitVec.eq_of_toNat_eq (by rw [field_toNat, he, BitVec.toNat_ofNat]; omega))
        have h0 := key 0 (by decide) h0; have h1' := key 1 (by decide) h1'; have h1 := key 2 (by decide) h1
        rw [encode_wait_toNat, field_toNat]
        simp only [Nat.reducePow, Nat.div_one] at *; omega

/-- The request of a WAIT's word: the one field too wide to try every value of. -/
theorem decodeCore_encode_wait (ms : WaitCount) : decodeCore (encode (.wait ms)) = .request (.wait ms) := by
  have hw := encode_wait_toNat ms
  have hm := ms.isLt
  have ne : ∀ k : Nat, k < 3 → (encode (.wait ms)).extractLsb' 14 2 ≠ BitVec.ofNat 2 k := by
    intro k hk h
    have := congrArg BitVec.toNat h
    rw [field_toNat, hw, BitVec.toNat_ofNat] at this
    omega
  unfold decodeCore
  have n0 : ¬ (encode (.wait ms)).extractLsb' 14 2 = 0b00 := ne 0 (by decide)
  have n1 : ¬ (encode (.wait ms)).extractLsb' 14 2 = 0b01 := ne 1 (by decide)
  have n2 : ¬ (encode (.wait ms)).extractLsb' 14 2 = 0b10 := ne 2 (by decide)
  rw [if_neg n0, if_neg n1, if_neg n2]
  congr 2
  refine BitVec.eq_of_toNat_eq ?_
  rw [field_toNat, hw]; omega

/-- The decoder names the core's request. -/
theorem decode_request {w : ReqWord} {i : Instr} (h : decodeCore w = .request i) : decode w = .request i.named := by
  simp [decode, h]

/-- A word the core refuses is refused. -/
theorem decode_illegal {w v : ReqWord} (h : decodeCore w = .illegal v) : decode w = .illegal v := by
  simp [decode, h]

/-- The legal words by number: 512 SEND_BYTE, 16 SEND_NIBBLE, 2 SET_CTRL and 16384 WAIT words (R77). -/
theorem isLegal_iff_toNat (w : ReqWord) : isLegal w = true ↔
    w.toNat < 512 ∨ (16384 ≤ w.toNat ∧ w.toNat < 16400) ∨ w.toNat = 32768 ∨ w.toNat = 33024 ∨ 49152 ≤ w.toNat := by
  have legal : ∀ {i : Instr}, decodeCore w = .request i → isLegal w = true := fun h => by
    simp [isLegal, decode_request h]
  constructor
  · intro h
    rcases decodeCore_cases w with ⟨rs, v, hw, -⟩ | ⟨n, hw, -⟩ | ⟨rs, hw, -⟩ | ⟨ms, hw, -⟩ | hi
    · have := encode_sendByte_toNat rs v; have hv := v.isLt
      rw [hw]; cases rs <;> simp at this <;> omega
    · have := encode_sendNibble_toNat n; have hn := n.isLt
      rw [hw]; omega
    · have := encode_setCtrl_toNat rs
      rw [hw]; cases rs <;> simp at this <;> omega
    · have := encode_wait_toNat ms
      rw [hw]; omega
    · simp [isLegal, decode_illegal hi] at h
  · have hw := w.isLt
    rintro (h | h | h | h | h)
    · have core : ∀ (rs : Bool) (v : Byte), decodeCore (encode (.sendByte rs v)) = .request (.sendByte rs v) := by
        decide +kernel
      have he : w = encode (.sendByte (decide (256 ≤ w.toNat)) (BitVec.ofNat 8 w.toNat)) := by
        refine BitVec.eq_of_toNat_eq ?_
        rw [encode_sendByte_toNat, BitVec.toNat_ofNat]
        by_cases hb : 256 ≤ w.toNat <;> simp [hb] <;> omega
      rw [he] at legal ⊢; exact legal (core _ _)
    · have core : ∀ n : Nibble, decodeCore (encode (.sendNibble n)) = .request (.sendNibble n) := by decide +kernel
      have he : w = encode (.sendNibble (BitVec.ofNat 4 w.toNat)) := by
        refine BitVec.eq_of_toNat_eq ?_
        rw [encode_sendNibble_toNat, BitVec.toNat_ofNat]; omega
      rw [he] at legal ⊢; exact legal (core _)
    · have he : w = encode (.setCtrl false) := BitVec.eq_of_toNat_eq (by rw [encode_setCtrl_toNat]; simpa using h)
      rw [he] at legal ⊢; exact legal (i := .setCtrl false) (by decide)
    · have he : w = encode (.setCtrl true) := BitVec.eq_of_toNat_eq (by rw [encode_setCtrl_toNat]; simpa using h)
      rw [he] at legal ⊢; exact legal (i := .setCtrl true) (by decide)
    · have he : w = encode (.wait (BitVec.ofNat 14 w.toNat)) := by
        refine BitVec.eq_of_toNat_eq ?_
        rw [encode_wait_toNat, BitVec.toNat_ofNat]; omega
      rw [he] at legal ⊢; exact legal (decodeCore_encode_wait _)

end Sys2Proof
end

