-- ==== Sys2Proof/Laws/Duties.lean ====
section
/-! SUPPORT. The host's duty to initialize (70_reset_and_hazards.md R212), said once for each way a history goes on, and the
histories that meet the duty about raw nibbles (R222). -/

namespace Sys2Proof.Machine

@[simp] theorem initDuty_nil (owed : List ReqWord) : initDuty owed [] = true := by cases owed <;> rfl

@[simp] theorem initDuty_reset (owed : List ReqWord) (h : List HostEvent) :
    initDuty owed (.reset :: h) = initDuty (words initStream) h := by cases owed <;> rfl

/-- A host that owes nothing may send any word. -/
@[simp] theorem initDuty_free (w : ReqWord) (h : List HostEvent) : initDuty [] (.accepted w :: h) = initDuty [] h := rfl

@[simp] theorem initDuty_owed (v w : ReqWord) (vs : List ReqWord) (h : List HostEvent) :
    initDuty (v :: vs) (.accepted w :: h) = (w == v && initDuty vs h) := rfl

/-- One step and then the rest of a history. -/
theorem history_succ {k : Nat} {s t : State} (h : step s = .next t) : history (k + 1) s = s.hostEvents ++ history k t := by
  simp [history, h]

/-- What comes after a reset owes the whole sequence, whatever came before it. -/
theorem initDuty_append_reset (owed : List ReqWord) (h h' : List HostEvent) :
    initDuty owed (h ++ .reset :: h') = (initDuty owed h && initDuty (words initStream) h') := by
  induction h generalizing owed with
  | nil => simp
  | cons e h ih =>
    cases e with
    | reset => simp [ih]
    | accepted w => cases owed <;> simp [ih, Bool.and_assoc]

/-- Without a reset the duty is met exactly when the accepted words and the owed ones agree as far as both go. -/
theorem initDuty_accepted_iff (owed ws : List ReqWord) :
    initDuty owed (ws.map .accepted) = true ↔ owed <+: ws ∨ ws <+: owed := by
  induction ws generalizing owed with
  | nil => simp
  | cons w ws ih =>
    cases owed with
    | nil => simpa using ih []
    | cons v vs => simp [ih, List.cons_prefix_cons, eq_comm (a := w), and_or_left]

/-- A host that is never reset and whose words begin with the sequence meets the duty. -/
theorem initDuty_of_initializesFirst {ws : List ReqWord} (h : InitializesFirst ws) :
    initDuty (words initStream) (ws.map .accepted) = true := (initDuty_accepted_iff _ _).2 (.inl h)

/-- A history without a raw nibble meets R222. -/
theorem nibblesPaired_of_no_nibble {h : List HostEvent} (hn : ∀ e ∈ h, e.isNibble = false) : NibblesPaired h := by
  intro k hk ha
  rw [List.getElem?_eq_getElem hk, Option.any_some, hn _ (List.getElem_mem hk)] at ha
  cases ha

/-- A history in which the far end is never put in 4-bit mode meets R222, whatever its nibbles. -/
theorem nibblesPaired_of_not_fourBit {h : List HostEvent} (hf : ¬ FourBitMode h) : NibblesPaired h :=
  fun k _ _ hk => absurd (hk.trans (List.take_prefix k h).isInfix) hf

/-- Every nibble of one run of the sequence belongs to it, whether it is whole or the history ends in it. -/
theorem initRun_of_prefix {ws : List ReqWord} (hw : ws <+: words initStream) {d : Nat} (hd : d < ws.length) :
    InitRun (ws.map .accepted) d := by
  refine ⟨ws.length, hw.length_le, hd, ?_, .inr (.inr (by simp))⟩
  rw [List.take_of_length_le (by simp), ← List.prefix_iff_eq_take.1 hw]

/-- The same of a run that a reset cuts off. -/
theorem initRun_of_cut {ws : List ReqWord} (hw : ws <+: words initStream) {d : Nat} (hd : d < ws.length) (h : List HostEvent) :
    InitRun (ws.map .accepted ++ .reset :: h) d := by
  refine ⟨ws.length, hw.length_le, hd, ?_, .inr (.inl (by simp))⟩
  rw [List.take_left' (by simp), ← List.prefix_iff_eq_take.1 hw]

end Sys2Proof.Machine
end

