-- ==== Sys2Proof/Laws/State.lean ====
section
/-! SUPPORT. One lemma per field per update of State, true by rfl, so that no proof unfolds a record update. -/

namespace Sys2Proof.Machine

/-! ### `State.setErr` -/

@[simp] theorem State.setErr_cfg (s : State) : (s.setErr).cfg = s.cfg := rfl
@[simp] theorem State.setErr_pin (s : State) : (s.setErr).pin = s.pin := rfl
@[simp] theorem State.setErr_phase (s : State) : (s.setErr).phase = s.phase := rfl
@[simp] theorem State.setErr_pend (s : State) : (s.setErr).pend = s.pend := rfl
@[simp] theorem State.setErr_min (s : State) : (s.setErr).min = s.min := rfl
@[simp] theorem State.setErr_elapsed (s : State) : (s.setErr).elapsed = s.elapsed := rfl
@[simp] theorem State.setErr_err (s : State) : (s.setErr).err = true := rfl
@[simp] theorem State.setErr_now (s : State) : (s.setErr).now = s.now := rfl
@[simp] theorem State.setErr_tRise (s : State) : (s.setErr).tRise = s.tRise := rfl
@[simp] theorem State.setErr_trace (s : State) : (s.setErr).trace = s.trace := rfl
@[simp] theorem State.setErr_reqValid (s : State) : (s.setErr).reqValid = s.reqValid := rfl
@[simp] theorem State.setErr_reqWord (s : State) : (s.setErr).reqWord = s.reqWord := rfl
@[simp] theorem State.setErr_rst (s : State) : (s.setErr).rst = s.rst := rfl
@[simp] theorem State.setErr_stream (s : State) : (s.setErr).stream = s.stream := rfl
@[simp] theorem State.setErr_sched (s : State) : (s.setErr).sched = s.sched := rfl
@[simp] theorem State.setErr_draws (s : State) : (s.setErr).draws = s.draws := rfl

/-! ### `State.drive` -/

@[simp] theorem State.drive_cfg (s : State) (p : Pins) : (s.drive p).cfg = s.cfg := rfl
@[simp] theorem State.drive_pin (s : State) (p : Pins) : (s.drive p).pin = p := rfl
@[simp] theorem State.drive_phase (s : State) (p : Pins) : (s.drive p).phase = s.phase := rfl
@[simp] theorem State.drive_pend (s : State) (p : Pins) : (s.drive p).pend = s.pend := rfl
@[simp] theorem State.drive_min (s : State) (p : Pins) : (s.drive p).min = s.min := rfl
@[simp] theorem State.drive_elapsed (s : State) (p : Pins) : (s.drive p).elapsed = s.elapsed := rfl
@[simp] theorem State.drive_err (s : State) (p : Pins) : (s.drive p).err = s.err := rfl
@[simp] theorem State.drive_now (s : State) (p : Pins) : (s.drive p).now = s.now := rfl
@[simp] theorem State.drive_tRise (s : State) (p : Pins) : (s.drive p).tRise = s.tRise := rfl
@[simp] theorem State.drive_trace (s : State) (p : Pins) :
    (s.drive p).trace = s.trace ++ s.pin.changeTo p s.now := rfl
@[simp] theorem State.drive_reqValid (s : State) (p : Pins) : (s.drive p).reqValid = s.reqValid := rfl
@[simp] theorem State.drive_reqWord (s : State) (p : Pins) : (s.drive p).reqWord = s.reqWord := rfl
@[simp] theorem State.drive_rst (s : State) (p : Pins) : (s.drive p).rst = s.rst := rfl
@[simp] theorem State.drive_stream (s : State) (p : Pins) : (s.drive p).stream = s.stream := rfl
@[simp] theorem State.drive_sched (s : State) (p : Pins) : (s.drive p).sched = s.sched := rfl
@[simp] theorem State.drive_draws (s : State) (p : Pins) : (s.drive p).draws = s.draws := rfl

/-! ### `State.emit` -/

@[simp] theorem State.emit_cfg (s : State) (ev : Event) : (s.emit ev).cfg = s.cfg := rfl
@[simp] theorem State.emit_pin (s : State) (ev : Event) : (s.emit ev).pin = s.pin := rfl
@[simp] theorem State.emit_phase (s : State) (ev : Event) : (s.emit ev).phase = s.phase := rfl
@[simp] theorem State.emit_pend (s : State) (ev : Event) : (s.emit ev).pend = s.pend := rfl
@[simp] theorem State.emit_min (s : State) (ev : Event) : (s.emit ev).min = s.min := rfl
@[simp] theorem State.emit_elapsed (s : State) (ev : Event) : (s.emit ev).elapsed = s.elapsed := rfl
@[simp] theorem State.emit_err (s : State) (ev : Event) : (s.emit ev).err = s.err := rfl
@[simp] theorem State.emit_now (s : State) (ev : Event) : (s.emit ev).now = s.now := rfl
@[simp] theorem State.emit_tRise (s : State) (ev : Event) : (s.emit ev).tRise = s.tRise := rfl
@[simp] theorem State.emit_trace (s : State) (ev : Event) : (s.emit ev).trace = s.trace ++ [ev] := rfl
@[simp] theorem State.emit_reqValid (s : State) (ev : Event) : (s.emit ev).reqValid = s.reqValid := rfl
@[simp] theorem State.emit_reqWord (s : State) (ev : Event) : (s.emit ev).reqWord = s.reqWord := rfl
@[simp] theorem State.emit_rst (s : State) (ev : Event) : (s.emit ev).rst = s.rst := rfl
@[simp] theorem State.emit_stream (s : State) (ev : Event) : (s.emit ev).stream = s.stream := rfl
@[simp] theorem State.emit_sched (s : State) (ev : Event) : (s.emit ev).sched = s.sched := rfl
@[simp] theorem State.emit_draws (s : State) (ev : Event) : (s.emit ev).draws = s.draws := rfl

/-! ### `State.startPhase` -/

@[simp] theorem State.startPhase_cfg (s : State) (p : Phase) (t : Nat) : (s.startPhase p t).cfg = s.cfg := rfl
@[simp] theorem State.startPhase_pin (s : State) (p : Phase) (t : Nat) : (s.startPhase p t).pin = s.pin := rfl
@[simp] theorem State.startPhase_phase (s : State) (p : Phase) (t : Nat) : (s.startPhase p t).phase = p := rfl
@[simp] theorem State.startPhase_pend (s : State) (p : Phase) (t : Nat) : (s.startPhase p t).pend = s.pend := rfl
@[simp] theorem State.startPhase_min (s : State) (p : Phase) (t : Nat) : (s.startPhase p t).min = t := rfl
@[simp] theorem State.startPhase_elapsed (s : State) (p : Phase) (t : Nat) : (s.startPhase p t).elapsed = 0 := rfl
@[simp] theorem State.startPhase_err (s : State) (p : Phase) (t : Nat) : (s.startPhase p t).err = s.err := rfl
@[simp] theorem State.startPhase_now (s : State) (p : Phase) (t : Nat) : (s.startPhase p t).now = s.now := rfl
@[simp] theorem State.startPhase_tRise (s : State) (p : Phase) (t : Nat) : (s.startPhase p t).tRise = s.tRise := rfl
@[simp] theorem State.startPhase_trace (s : State) (p : Phase) (t : Nat) : (s.startPhase p t).trace = s.trace := rfl
@[simp] theorem State.startPhase_reqValid (s : State) (p : Phase) (t : Nat) : (s.startPhase p t).reqValid = s.reqValid := rfl
@[simp] theorem State.startPhase_reqWord (s : State) (p : Phase) (t : Nat) : (s.startPhase p t).reqWord = s.reqWord := rfl
@[simp] theorem State.startPhase_rst (s : State) (p : Phase) (t : Nat) : (s.startPhase p t).rst = s.rst := rfl
@[simp] theorem State.startPhase_stream (s : State) (p : Phase) (t : Nat) : (s.startPhase p t).stream = s.stream := rfl
@[simp] theorem State.startPhase_sched (s : State) (p : Phase) (t : Nat) : (s.startPhase p t).sched = s.sched := rfl
@[simp] theorem State.startPhase_draws (s : State) (p : Phase) (t : Nat) : (s.startPhase p t).draws = s.draws := rfl

/-! ### `State.toIdle` -/

@[simp] theorem State.toIdle_cfg (s : State) : (s.toIdle).cfg = s.cfg := rfl
@[simp] theorem State.toIdle_pin (s : State) : (s.toIdle).pin = s.pin := rfl
@[simp] theorem State.toIdle_phase (s : State) : (s.toIdle).phase = .idle := rfl
@[simp] theorem State.toIdle_pend (s : State) : (s.toIdle).pend = s.pend := rfl
@[simp] theorem State.toIdle_min (s : State) : (s.toIdle).min = 0 := rfl
@[simp] theorem State.toIdle_elapsed (s : State) : (s.toIdle).elapsed = 0 := rfl
@[simp] theorem State.toIdle_err (s : State) : (s.toIdle).err = s.err := rfl
@[simp] theorem State.toIdle_now (s : State) : (s.toIdle).now = s.now := rfl
@[simp] theorem State.toIdle_tRise (s : State) : (s.toIdle).tRise = s.tRise := rfl
@[simp] theorem State.toIdle_trace (s : State) : (s.toIdle).trace = s.trace := rfl
@[simp] theorem State.toIdle_reqValid (s : State) : (s.toIdle).reqValid = s.reqValid := rfl
@[simp] theorem State.toIdle_reqWord (s : State) : (s.toIdle).reqWord = s.reqWord := rfl
@[simp] theorem State.toIdle_rst (s : State) : (s.toIdle).rst = s.rst := rfl
@[simp] theorem State.toIdle_stream (s : State) : (s.toIdle).stream = s.stream := rfl
@[simp] theorem State.toIdle_sched (s : State) : (s.toIdle).sched = s.sched := rfl
@[simp] theorem State.toIdle_draws (s : State) : (s.toIdle).draws = s.draws := rfl

/-! ### `State.setPend` -/

@[simp] theorem State.setPend_cfg (s : State) (p : Option Nibble) : (s.setPend p).cfg = s.cfg := rfl
@[simp] theorem State.setPend_pin (s : State) (p : Option Nibble) : (s.setPend p).pin = s.pin := rfl
@[simp] theorem State.setPend_phase (s : State) (p : Option Nibble) : (s.setPend p).phase = s.phase := rfl
@[simp] theorem State.setPend_pend (s : State) (p : Option Nibble) : (s.setPend p).pend = p := rfl
@[simp] theorem State.setPend_min (s : State) (p : Option Nibble) : (s.setPend p).min = s.min := rfl
@[simp] theorem State.setPend_elapsed (s : State) (p : Option Nibble) : (s.setPend p).elapsed = s.elapsed := rfl
@[simp] theorem State.setPend_err (s : State) (p : Option Nibble) : (s.setPend p).err = s.err := rfl
@[simp] theorem State.setPend_now (s : State) (p : Option Nibble) : (s.setPend p).now = s.now := rfl
@[simp] theorem State.setPend_tRise (s : State) (p : Option Nibble) : (s.setPend p).tRise = s.tRise := rfl
@[simp] theorem State.setPend_trace (s : State) (p : Option Nibble) : (s.setPend p).trace = s.trace := rfl
@[simp] theorem State.setPend_reqValid (s : State) (p : Option Nibble) : (s.setPend p).reqValid = s.reqValid := rfl
@[simp] theorem State.setPend_reqWord (s : State) (p : Option Nibble) : (s.setPend p).reqWord = s.reqWord := rfl
@[simp] theorem State.setPend_rst (s : State) (p : Option Nibble) : (s.setPend p).rst = s.rst := rfl
@[simp] theorem State.setPend_stream (s : State) (p : Option Nibble) : (s.setPend p).stream = s.stream := rfl
@[simp] theorem State.setPend_sched (s : State) (p : Option Nibble) : (s.setPend p).sched = s.sched := rfl
@[simp] theorem State.setPend_draws (s : State) (p : Option Nibble) : (s.setPend p).draws = s.draws := rfl

/-! ### `State.setTRise` -/

@[simp] theorem State.setTRise_cfg (s : State) (t : Nat) : (s.setTRise t).cfg = s.cfg := rfl
@[simp] theorem State.setTRise_pin (s : State) (t : Nat) : (s.setTRise t).pin = s.pin := rfl
@[simp] theorem State.setTRise_phase (s : State) (t : Nat) : (s.setTRise t).phase = s.phase := rfl
@[simp] theorem State.setTRise_pend (s : State) (t : Nat) : (s.setTRise t).pend = s.pend := rfl
@[simp] theorem State.setTRise_min (s : State) (t : Nat) : (s.setTRise t).min = s.min := rfl
@[simp] theorem State.setTRise_elapsed (s : State) (t : Nat) : (s.setTRise t).elapsed = s.elapsed := rfl
@[simp] theorem State.setTRise_err (s : State) (t : Nat) : (s.setTRise t).err = s.err := rfl
@[simp] theorem State.setTRise_now (s : State) (t : Nat) : (s.setTRise t).now = s.now := rfl
@[simp] theorem State.setTRise_tRise (s : State) (t : Nat) : (s.setTRise t).tRise = t := rfl
@[simp] theorem State.setTRise_trace (s : State) (t : Nat) : (s.setTRise t).trace = s.trace := rfl
@[simp] theorem State.setTRise_reqValid (s : State) (t : Nat) : (s.setTRise t).reqValid = s.reqValid := rfl
@[simp] theorem State.setTRise_reqWord (s : State) (t : Nat) : (s.setTRise t).reqWord = s.reqWord := rfl
@[simp] theorem State.setTRise_rst (s : State) (t : Nat) : (s.setTRise t).rst = s.rst := rfl
@[simp] theorem State.setTRise_stream (s : State) (t : Nat) : (s.setTRise t).stream = s.stream := rfl
@[simp] theorem State.setTRise_sched (s : State) (t : Nat) : (s.setTRise t).sched = s.sched := rfl
@[simp] theorem State.setTRise_draws (s : State) (t : Nat) : (s.setTRise t).draws = s.draws := rfl

/-! ### `State.advance` -/

@[simp] theorem State.advance_cfg (s : State) (δ : Nat) : (s.advance δ).cfg = s.cfg := rfl
@[simp] theorem State.advance_pin (s : State) (δ : Nat) : (s.advance δ).pin = s.pin := rfl
@[simp] theorem State.advance_phase (s : State) (δ : Nat) : (s.advance δ).phase = s.phase := rfl
@[simp] theorem State.advance_pend (s : State) (δ : Nat) : (s.advance δ).pend = s.pend := rfl
@[simp] theorem State.advance_min (s : State) (δ : Nat) : (s.advance δ).min = s.min := rfl
@[simp] theorem State.advance_elapsed (s : State) (δ : Nat) :
    (s.advance δ).elapsed = if s.phase = .idle then s.elapsed else s.elapsed + δ := rfl
@[simp] theorem State.advance_err (s : State) (δ : Nat) : (s.advance δ).err = s.err := rfl
@[simp] theorem State.advance_now (s : State) (δ : Nat) : (s.advance δ).now = s.now + δ := rfl
@[simp] theorem State.advance_tRise (s : State) (δ : Nat) : (s.advance δ).tRise = s.tRise := rfl
@[simp] theorem State.advance_trace (s : State) (δ : Nat) : (s.advance δ).trace = s.trace := rfl
@[simp] theorem State.advance_reqValid (s : State) (δ : Nat) : (s.advance δ).reqValid = s.reqValid := rfl
@[simp] theorem State.advance_reqWord (s : State) (δ : Nat) : (s.advance δ).reqWord = s.reqWord := rfl
@[simp] theorem State.advance_rst (s : State) (δ : Nat) : (s.advance δ).rst = s.rst := rfl
@[simp] theorem State.advance_stream (s : State) (δ : Nat) : (s.advance δ).stream = s.stream := rfl
@[simp] theorem State.advance_sched (s : State) (δ : Nat) : (s.advance δ).sched = s.sched := rfl
@[simp] theorem State.advance_draws (s : State) (δ : Nat) : (s.advance δ).draws = s.draws := rfl

/-! ### `State.assertReset` -/

@[simp] theorem State.assertReset_cfg (s : State) : (s.assertReset).cfg = s.cfg := rfl
@[simp] theorem State.assertReset_pin (s : State) : (s.assertReset).pin = s.pin := rfl
@[simp] theorem State.assertReset_phase (s : State) : (s.assertReset).phase = s.phase := rfl
@[simp] theorem State.assertReset_pend (s : State) : (s.assertReset).pend = s.pend := rfl
@[simp] theorem State.assertReset_min (s : State) : (s.assertReset).min = s.min := rfl
@[simp] theorem State.assertReset_elapsed (s : State) : (s.assertReset).elapsed = s.elapsed := rfl
@[simp] theorem State.assertReset_err (s : State) : (s.assertReset).err = s.err := rfl
@[simp] theorem State.assertReset_now (s : State) : (s.assertReset).now = s.now := rfl
@[simp] theorem State.assertReset_tRise (s : State) : (s.assertReset).tRise = s.tRise := rfl
@[simp] theorem State.assertReset_trace (s : State) : (s.assertReset).trace = s.trace := rfl
@[simp] theorem State.assertReset_reqValid (s : State) : (s.assertReset).reqValid = s.reqValid := rfl
@[simp] theorem State.assertReset_reqWord (s : State) : (s.assertReset).reqWord = s.reqWord := rfl
@[simp] theorem State.assertReset_rst (s : State) : (s.assertReset).rst = true := rfl
@[simp] theorem State.assertReset_stream (s : State) : (s.assertReset).stream = s.stream := rfl
@[simp] theorem State.assertReset_sched (s : State) : (s.assertReset).sched = s.sched := rfl
@[simp] theorem State.assertReset_draws (s : State) : (s.assertReset).draws = s.draws := rfl

/-! ### `State.consume` -/

@[simp] theorem State.consume_cfg (s : State) : (s.consume).cfg = s.cfg := rfl
@[simp] theorem State.consume_pin (s : State) : (s.consume).pin = s.pin := rfl
@[simp] theorem State.consume_phase (s : State) : (s.consume).phase = s.phase := rfl
@[simp] theorem State.consume_pend (s : State) : (s.consume).pend = s.pend := rfl
@[simp] theorem State.consume_min (s : State) : (s.consume).min = s.min := rfl
@[simp] theorem State.consume_elapsed (s : State) : (s.consume).elapsed = s.elapsed := rfl
@[simp] theorem State.consume_err (s : State) : (s.consume).err = s.err := rfl
@[simp] theorem State.consume_now (s : State) : (s.consume).now = s.now := rfl
@[simp] theorem State.consume_tRise (s : State) : (s.consume).tRise = s.tRise := rfl
@[simp] theorem State.consume_trace (s : State) : (s.consume).trace = s.trace := rfl
@[simp] theorem State.consume_reqValid (s : State) : (s.consume).reqValid = false := rfl
@[simp] theorem State.consume_reqWord (s : State) : (s.consume).reqWord = s.reqWord := rfl
@[simp] theorem State.consume_rst (s : State) : (s.consume).rst = s.rst := rfl
@[simp] theorem State.consume_stream (s : State) : (s.consume).stream = s.stream := rfl
@[simp] theorem State.consume_sched (s : State) : (s.consume).sched = s.sched := rfl
@[simp] theorem State.consume_draws (s : State) : (s.consume).draws = s.draws := rfl

/-! ### `State.load` -/

@[simp] theorem State.load_cfg (s : State) (is : List Instr) : (s.load is).cfg = s.cfg := rfl
@[simp] theorem State.load_pin (s : State) (is : List Instr) : (s.load is).pin = s.pin := rfl
@[simp] theorem State.load_phase (s : State) (is : List Instr) : (s.load is).phase = s.phase := rfl
@[simp] theorem State.load_pend (s : State) (is : List Instr) : (s.load is).pend = s.pend := rfl
@[simp] theorem State.load_min (s : State) (is : List Instr) : (s.load is).min = s.min := rfl
@[simp] theorem State.load_elapsed (s : State) (is : List Instr) : (s.load is).elapsed = s.elapsed := rfl
@[simp] theorem State.load_err (s : State) (is : List Instr) : (s.load is).err = s.err := rfl
@[simp] theorem State.load_now (s : State) (is : List Instr) : (s.load is).now = s.now := rfl
@[simp] theorem State.load_tRise (s : State) (is : List Instr) : (s.load is).tRise = s.tRise := rfl
@[simp] theorem State.load_trace (s : State) (is : List Instr) : (s.load is).trace = s.trace := rfl
@[simp] theorem State.load_reqValid (s : State) (is : List Instr) : (s.load is).reqValid = s.reqValid := rfl
@[simp] theorem State.load_reqWord (s : State) (is : List Instr) : (s.load is).reqWord = s.reqWord := rfl
@[simp] theorem State.load_rst (s : State) (is : List Instr) : (s.load is).rst = s.rst := rfl
@[simp] theorem State.load_stream (s : State) (is : List Instr) : (s.load is).stream = s.stream ++ words is := rfl
@[simp] theorem State.load_sched (s : State) (is : List Instr) : (s.load is).sched = s.sched := rfl
@[simp] theorem State.load_draws (s : State) (is : List Instr) : (s.load is).draws = s.draws := rfl

/-! ### `State.beginNibble` -/

@[simp] theorem State.beginNibble_cfg (s : State) (n : Nibble) : (s.beginNibble n).cfg = s.cfg := rfl
@[simp] theorem State.beginNibble_pin (s : State) (n : Nibble) :
    (s.beginNibble n).pin = { s.pin with d := n, e := false } := rfl
@[simp] theorem State.beginNibble_phase (s : State) (n : Nibble) : (s.beginNibble n).phase = .setup := rfl
@[simp] theorem State.beginNibble_pend (s : State) (n : Nibble) : (s.beginNibble n).pend = s.pend := rfl
@[simp] theorem State.beginNibble_min (s : State) (n : Nibble) : (s.beginNibble n).min = s.cfg.tSuMin := rfl
@[simp] theorem State.beginNibble_elapsed (s : State) (n : Nibble) : (s.beginNibble n).elapsed = 0 := rfl
@[simp] theorem State.beginNibble_err (s : State) (n : Nibble) : (s.beginNibble n).err = s.err := rfl
@[simp] theorem State.beginNibble_now (s : State) (n : Nibble) : (s.beginNibble n).now = s.now := rfl
@[simp] theorem State.beginNibble_tRise (s : State) (n : Nibble) : (s.beginNibble n).tRise = s.tRise := rfl
@[simp] theorem State.beginNibble_trace (s : State) (n : Nibble) :
    (s.beginNibble n).trace = s.trace ++ s.pin.changeTo ⟨s.pin.rs, s.pin.rw, false, n⟩ s.now := rfl
@[simp] theorem State.beginNibble_reqValid (s : State) (n : Nibble) : (s.beginNibble n).reqValid = s.reqValid := rfl
@[simp] theorem State.beginNibble_reqWord (s : State) (n : Nibble) : (s.beginNibble n).reqWord = s.reqWord := rfl
@[simp] theorem State.beginNibble_rst (s : State) (n : Nibble) : (s.beginNibble n).rst = s.rst := rfl
@[simp] theorem State.beginNibble_stream (s : State) (n : Nibble) : (s.beginNibble n).stream = s.stream := rfl
@[simp] theorem State.beginNibble_sched (s : State) (n : Nibble) : (s.beginNibble n).sched = s.sched := rfl
@[simp] theorem State.beginNibble_draws (s : State) (n : Nibble) : (s.beginNibble n).draws = s.draws := rfl

/-! ### `State.startNibble` -/

@[simp] theorem State.startNibble_cfg (s : State) (n : Nibble) : (s.startNibble n).cfg = s.cfg := rfl
@[simp] theorem State.startNibble_pin (s : State) (n : Nibble) :
    (s.startNibble n).pin = { s.pin with d := n, e := false } := rfl
@[simp] theorem State.startNibble_phase (s : State) (n : Nibble) : (s.startNibble n).phase = .setup := rfl
@[simp] theorem State.startNibble_pend (s : State) (n : Nibble) : (s.startNibble n).pend = none := rfl
@[simp] theorem State.startNibble_min (s : State) (n : Nibble) : (s.startNibble n).min = s.cfg.tSuMin := rfl
@[simp] theorem State.startNibble_elapsed (s : State) (n : Nibble) : (s.startNibble n).elapsed = 0 := rfl
@[simp] theorem State.startNibble_err (s : State) (n : Nibble) : (s.startNibble n).err = s.err := rfl
@[simp] theorem State.startNibble_now (s : State) (n : Nibble) : (s.startNibble n).now = s.now := rfl
@[simp] theorem State.startNibble_tRise (s : State) (n : Nibble) : (s.startNibble n).tRise = s.tRise := rfl
@[simp] theorem State.startNibble_trace (s : State) (n : Nibble) :
    (s.startNibble n).trace = s.trace ++ s.pin.changeTo ⟨s.pin.rs, s.pin.rw, false, n⟩ s.now := rfl
@[simp] theorem State.startNibble_reqValid (s : State) (n : Nibble) : (s.startNibble n).reqValid = s.reqValid := rfl
@[simp] theorem State.startNibble_reqWord (s : State) (n : Nibble) : (s.startNibble n).reqWord = s.reqWord := rfl
@[simp] theorem State.startNibble_rst (s : State) (n : Nibble) : (s.startNibble n).rst = s.rst := rfl
@[simp] theorem State.startNibble_stream (s : State) (n : Nibble) : (s.startNibble n).stream = s.stream := rfl
@[simp] theorem State.startNibble_sched (s : State) (n : Nibble) : (s.startNibble n).sched = s.sched := rfl
@[simp] theorem State.startNibble_draws (s : State) (n : Nibble) : (s.startNibble n).draws = s.draws := rfl

/-! ### `State.startByte` -/

@[simp] theorem State.startByte_cfg (s : State) (rs : Bool) (v : Byte) : (s.startByte rs v).cfg = s.cfg := rfl
@[simp] theorem State.startByte_pin (s : State) (rs : Bool) (v : Byte) :
    (s.startByte rs v).pin = ⟨rs, false, false, hiNibble v⟩ := rfl
@[simp] theorem State.startByte_phase (s : State) (rs : Bool) (v : Byte) : (s.startByte rs v).phase = .setup := rfl
@[simp] theorem State.startByte_pend (s : State) (rs : Bool) (v : Byte) : (s.startByte rs v).pend = some (loNibble v) := rfl
@[simp] theorem State.startByte_min (s : State) (rs : Bool) (v : Byte) : (s.startByte rs v).min = s.cfg.tSuMin := rfl
@[simp] theorem State.startByte_elapsed (s : State) (rs : Bool) (v : Byte) : (s.startByte rs v).elapsed = 0 := rfl
@[simp] theorem State.startByte_err (s : State) (rs : Bool) (v : Byte) : (s.startByte rs v).err = s.err := rfl
@[simp] theorem State.startByte_now (s : State) (rs : Bool) (v : Byte) : (s.startByte rs v).now = s.now := rfl
@[simp] theorem State.startByte_tRise (s : State) (rs : Bool) (v : Byte) : (s.startByte rs v).tRise = s.tRise := rfl
@[simp] theorem State.startByte_trace (s : State) (rs : Bool) (v : Byte) :
    (s.startByte rs v).trace =
      s.trace ++ s.pin.changeTo ⟨rs, false, s.pin.e, s.pin.d⟩ s.now ++
        Pins.changeTo ⟨rs, false, s.pin.e, s.pin.d⟩ ⟨rs, false, false, hiNibble v⟩ s.now := rfl
@[simp] theorem State.startByte_reqValid (s : State) (rs : Bool) (v : Byte) : (s.startByte rs v).reqValid = s.reqValid := rfl
@[simp] theorem State.startByte_reqWord (s : State) (rs : Bool) (v : Byte) : (s.startByte rs v).reqWord = s.reqWord := rfl
@[simp] theorem State.startByte_rst (s : State) (rs : Bool) (v : Byte) : (s.startByte rs v).rst = s.rst := rfl
@[simp] theorem State.startByte_stream (s : State) (rs : Bool) (v : Byte) : (s.startByte rs v).stream = s.stream := rfl
@[simp] theorem State.startByte_sched (s : State) (rs : Bool) (v : Byte) : (s.startByte rs v).sched = s.sched := rfl
@[simp] theorem State.startByte_draws (s : State) (rs : Bool) (v : Byte) : (s.startByte rs v).draws = s.draws := rfl

/-! ### `State.raiseIllegal` -/

@[simp] theorem State.raiseIllegal_cfg (s : State) (w : ReqWord) : (s.raiseIllegal w).cfg = s.cfg := rfl
@[simp] theorem State.raiseIllegal_pin (s : State) (w : ReqWord) : (s.raiseIllegal w).pin = s.pin := rfl
@[simp] theorem State.raiseIllegal_phase (s : State) (w : ReqWord) : (s.raiseIllegal w).phase = s.phase := rfl
@[simp] theorem State.raiseIllegal_pend (s : State) (w : ReqWord) : (s.raiseIllegal w).pend = s.pend := rfl
@[simp] theorem State.raiseIllegal_min (s : State) (w : ReqWord) : (s.raiseIllegal w).min = s.min := rfl
@[simp] theorem State.raiseIllegal_elapsed (s : State) (w : ReqWord) : (s.raiseIllegal w).elapsed = s.elapsed := rfl
@[simp] theorem State.raiseIllegal_err (s : State) (w : ReqWord) : (s.raiseIllegal w).err = true := rfl
@[simp] theorem State.raiseIllegal_now (s : State) (w : ReqWord) : (s.raiseIllegal w).now = s.now := rfl
@[simp] theorem State.raiseIllegal_tRise (s : State) (w : ReqWord) : (s.raiseIllegal w).tRise = s.tRise := rfl
@[simp] theorem State.raiseIllegal_trace (s : State) (w : ReqWord) :
    (s.raiseIllegal w).trace = s.trace ++ [.illegalEv w s.now] := rfl
@[simp] theorem State.raiseIllegal_reqValid (s : State) (w : ReqWord) : (s.raiseIllegal w).reqValid = s.reqValid := rfl
@[simp] theorem State.raiseIllegal_reqWord (s : State) (w : ReqWord) : (s.raiseIllegal w).reqWord = s.reqWord := rfl
@[simp] theorem State.raiseIllegal_rst (s : State) (w : ReqWord) : (s.raiseIllegal w).rst = s.rst := rfl
@[simp] theorem State.raiseIllegal_stream (s : State) (w : ReqWord) : (s.raiseIllegal w).stream = s.stream := rfl
@[simp] theorem State.raiseIllegal_sched (s : State) (w : ReqWord) : (s.raiseIllegal w).sched = s.sched := rfl
@[simp] theorem State.raiseIllegal_draws (s : State) (w : ReqWord) : (s.raiseIllegal w).draws = s.draws := rfl

/-! ### `State.endSetup` -/

@[simp] theorem State.endSetup_cfg (s : State) : (s.endSetup).cfg = s.cfg := rfl
@[simp] theorem State.endSetup_pin (s : State) : (s.endSetup).pin = { s.pin with e := true } := rfl
@[simp] theorem State.endSetup_phase (s : State) : (s.endSetup).phase = .pulse := rfl
@[simp] theorem State.endSetup_pend (s : State) : (s.endSetup).pend = s.pend := rfl
@[simp] theorem State.endSetup_min (s : State) : (s.endSetup).min = s.cfg.tPwMin := rfl
@[simp] theorem State.endSetup_elapsed (s : State) : (s.endSetup).elapsed = 0 := rfl
@[simp] theorem State.endSetup_err (s : State) : (s.endSetup).err = s.err := rfl
@[simp] theorem State.endSetup_now (s : State) : (s.endSetup).now = s.now := rfl
@[simp] theorem State.endSetup_tRise (s : State) : (s.endSetup).tRise = s.now := rfl
@[simp] theorem State.endSetup_trace (s : State) :
    (s.endSetup).trace = s.trace ++ s.pin.changeTo ⟨s.pin.rs, s.pin.rw, true, s.pin.d⟩ s.now := rfl
@[simp] theorem State.endSetup_reqValid (s : State) : (s.endSetup).reqValid = s.reqValid := rfl
@[simp] theorem State.endSetup_reqWord (s : State) : (s.endSetup).reqWord = s.reqWord := rfl
@[simp] theorem State.endSetup_rst (s : State) : (s.endSetup).rst = s.rst := rfl
@[simp] theorem State.endSetup_stream (s : State) : (s.endSetup).stream = s.stream := rfl
@[simp] theorem State.endSetup_sched (s : State) : (s.endSetup).sched = s.sched := rfl
@[simp] theorem State.endSetup_draws (s : State) : (s.endSetup).draws = s.draws := rfl

/-! ### `State.endPulse` -/

@[simp] theorem State.endPulse_cfg (s : State) : (s.endPulse).cfg = s.cfg := rfl
@[simp] theorem State.endPulse_pin (s : State) : (s.endPulse).pin = { s.pin with e := false } := rfl
@[simp] theorem State.endPulse_phase (s : State) : (s.endPulse).phase = .settle := rfl
@[simp] theorem State.endPulse_pend (s : State) : (s.endPulse).pend = s.pend := rfl
@[simp] theorem State.endPulse_min (s : State) : (s.endPulse).min = s.cfg.tSettleMin := rfl
@[simp] theorem State.endPulse_elapsed (s : State) : (s.endPulse).elapsed = 0 := rfl
@[simp] theorem State.endPulse_err (s : State) : (s.endPulse).err = s.err := rfl
@[simp] theorem State.endPulse_now (s : State) : (s.endPulse).now = s.now := rfl
@[simp] theorem State.endPulse_tRise (s : State) : (s.endPulse).tRise = s.tRise := rfl
@[simp] theorem State.endPulse_trace (s : State) :
    (s.endPulse).trace =
      s.trace ++ s.pin.changeTo ⟨s.pin.rs, s.pin.rw, false, s.pin.d⟩ s.now ++
        [.xfer s.pin.rs s.pin.rw s.pin.d s.tRise s.now] := rfl
@[simp] theorem State.endPulse_reqValid (s : State) : (s.endPulse).reqValid = s.reqValid := rfl
@[simp] theorem State.endPulse_reqWord (s : State) : (s.endPulse).reqWord = s.reqWord := rfl
@[simp] theorem State.endPulse_rst (s : State) : (s.endPulse).rst = s.rst := rfl
@[simp] theorem State.endPulse_stream (s : State) : (s.endPulse).stream = s.stream := rfl
@[simp] theorem State.endPulse_sched (s : State) : (s.endPulse).sched = s.sched := rfl
@[simp] theorem State.endPulse_draws (s : State) : (s.endPulse).draws = s.draws := rfl

/-! ### `State.endWait` -/

@[simp] theorem State.endWait_cfg (s : State) : (s.endWait).cfg = s.cfg := rfl
@[simp] theorem State.endWait_pin (s : State) : (s.endWait).pin = s.pin := rfl
@[simp] theorem State.endWait_phase (s : State) : (s.endWait).phase = .idle := rfl
@[simp] theorem State.endWait_pend (s : State) : (s.endWait).pend = s.pend := rfl
@[simp] theorem State.endWait_min (s : State) : (s.endWait).min = 0 := rfl
@[simp] theorem State.endWait_elapsed (s : State) : (s.endWait).elapsed = 0 := rfl
@[simp] theorem State.endWait_err (s : State) : (s.endWait).err = s.err := rfl
@[simp] theorem State.endWait_now (s : State) : (s.endWait).now = s.now := rfl
@[simp] theorem State.endWait_tRise (s : State) : (s.endWait).tRise = s.tRise := rfl
@[simp] theorem State.endWait_trace (s : State) : (s.endWait).trace = s.trace := rfl
@[simp] theorem State.endWait_reqValid (s : State) : (s.endWait).reqValid = s.reqValid := rfl
@[simp] theorem State.endWait_reqWord (s : State) : (s.endWait).reqWord = s.reqWord := rfl
@[simp] theorem State.endWait_rst (s : State) : (s.endWait).rst = s.rst := rfl
@[simp] theorem State.endWait_stream (s : State) : (s.endWait).stream = s.stream := rfl
@[simp] theorem State.endWait_sched (s : State) : (s.endWait).sched = s.sched := rfl
@[simp] theorem State.endWait_draws (s : State) : (s.endWait).draws = s.draws := rfl

end Sys2Proof.Machine
end

