-- ==== Sys2Proof/Laws/Ops.lean ====
section
/-! SUPPORT. One spec lemma per shared operation: what it can do, said once. -/

namespace Sys2Proof.Machine

/-! ### Acceptance -/

/-- In IDLE the request has its effect. -/
theorem accept_idle {s : State} (effect : State → State) (h : s.phase = .idle) : s.accept effect = .next (effect s) := by
  simp [State.accept, h]

/-- While another request is in progress it is held. -/
theorem accept_busy {s : State} (effect : State → State) (h : s.phase ≠ .idle) : s.accept effect = .next s := by
  simp [State.accept, h]

/-- Acceptance answers a next state: the request's effect in IDLE, no change otherwise. -/
theorem accept_cases {s t : State} {effect : State → State} (h : s.accept effect = .next t) :
    (s.phase = .idle ∧ t = effect s) ∨ (s.phase ≠ .idle ∧ t = s) := by
  by_cases hp : s.phase = .idle
  · rw [accept_idle effect hp] at h; injection h with h; exact .inl ⟨hp, h.symm⟩
  · rw [accept_busy effect hp] at h; injection h with h; exact .inr ⟨hp, h.symm⟩

/-! ### The host's moves -/

/-- Presenting takes the host's next word when the port is free, and changes nothing otherwise. -/
theorem present_cases (s : State) :
    (∃ w ws, s.reqValid = false ∧ s.stream = w :: ws ∧
      s.present = { s with reqValid := true, reqWord := w, stream := ws }) ∨ s.present = s := by
  unfold State.present
  split
  · exact .inr rfl
  · split
    · exact .inr rfl
    · exact .inl ⟨_, _, by simp_all, ‹_›, rfl⟩

/-- Presenting moves a word from the stream to the port: the words not accepted yet stay the same. -/
@[simp] theorem present_waiting (s : State) : s.present.waiting = s.waiting := by
  rcases present_cases s with ⟨w, ws, hv, hs, he⟩ | he
  · rw [he]; simp [State.waiting, hv, hs]
  · rw [he]

/-! ### The schedule -/

/-- Taking a move changes only the schedule and the counter of free moves. -/
theorem useMove_eq (s : State) : s.useMove = { s with sched := s.useMove.sched, draws := s.useMove.draws } := by
  unfold State.useMove; split <;> rfl

@[simp] theorem useMove_cfg (s : State) : s.useMove.cfg = s.cfg := by rw [useMove_eq]
@[simp] theorem useMove_pin (s : State) : s.useMove.pin = s.pin := by rw [useMove_eq]
@[simp] theorem useMove_phase (s : State) : s.useMove.phase = s.phase := by rw [useMove_eq]
@[simp] theorem useMove_pend (s : State) : s.useMove.pend = s.pend := by rw [useMove_eq]
@[simp] theorem useMove_min (s : State) : s.useMove.min = s.min := by rw [useMove_eq]
@[simp] theorem useMove_elapsed (s : State) : s.useMove.elapsed = s.elapsed := by rw [useMove_eq]
@[simp] theorem useMove_err (s : State) : s.useMove.err = s.err := by rw [useMove_eq]
@[simp] theorem useMove_now (s : State) : s.useMove.now = s.now := by rw [useMove_eq]
@[simp] theorem useMove_tRise (s : State) : s.useMove.tRise = s.tRise := by rw [useMove_eq]
@[simp] theorem useMove_trace (s : State) : s.useMove.trace = s.trace := by rw [useMove_eq]
@[simp] theorem useMove_reqValid (s : State) : s.useMove.reqValid = s.reqValid := by rw [useMove_eq]
@[simp] theorem useMove_reqWord (s : State) : s.useMove.reqWord = s.reqWord := by rw [useMove_eq]
@[simp] theorem useMove_rst (s : State) : s.useMove.rst = s.rst := by rw [useMove_eq]
@[simp] theorem useMove_stream (s : State) : s.useMove.stream = s.stream := by rw [useMove_eq]

/-- A scheduled move is the next one. -/
theorem nextMove_of_sched {s : State} {m : Move} {ms : List Move} (h : s.sched = m :: ms) : s.nextMove = m := by
  simp [State.nextMove, h]

/-- A scheduled move is taken off the schedule. -/
theorem useMove_of_sched {s : State} {m : Move} {ms : List Move} (h : s.sched = m :: ms) :
    s.useMove = { s with sched := ms } := by
  simp [State.useMove, h]

/-! ### Reset -/

/-- Everything reset does. -/
theorem takeReset_eq (s : State) :
    s.takeReset = { s with
      pin := Pins.low, phase := .idle, pend := none, min := 0, elapsed := 0, err := false, rst := false,
      trace := s.trace ++ (if s.phase = .pulse then
          [.cutPulse s.pin.rs s.pin.rw s.pin.d s.tRise s.now] else []) ++ s.pin.changeTo Pins.low s.now ++
          [.reset s.now] } := by
  unfold State.takeReset State.cutPulse
  split
  · simp [State.drive, State.toIdle, State.startPhase, State.setPend, State.emit]
  · simp [State.drive, State.toIdle, State.startPhase, State.setPend, State.emit]

/-! ### Pin-level changes in the trace -/

/-- A drive puts at most one entry in the trace, a pin-level change. -/
theorem mem_changeTo {old new : Pins} {time : Nat} {ev : Event} (h : ev ∈ old.changeTo new time) :
    ev = .pinChange new time := by
  unfold Pins.changeTo at h
  split at h <;> simp_all

@[simp] theorem xfer_mem_changeTo (old new : Pins) (time : Nat) (rs rw : Bool) (n : Nibble) (a b : Nat) :
    Event.xfer rs rw n a b ∈ old.changeTo new time ↔ False :=
  ⟨fun h => Event.noConfusion (mem_changeTo h), False.elim⟩

@[simp] theorem reset_mem_changeTo (old new : Pins) (time r : Nat) : Event.reset r ∈ old.changeTo new time ↔ False :=
  ⟨fun h => Event.noConfusion (mem_changeTo h), False.elim⟩

/-- Pin-level changes are no events. -/
@[simp] theorem filter_changeTo (old new : Pins) (time : Nat) :
    (old.changeTo new time).filter (fun ev => !ev.isPinChange) = [] := by
  unfold Pins.changeTo; split <;> rfl

/-! ### What crosses the bus -/

@[simp] theorem transfers_nil : transfers [] = [] := rfl

@[simp] theorem transfers_append (l m : List Event) : transfers (l ++ m) = transfers l ++ transfers m := by
  simp [transfers]

@[simp] theorem transfers_xfer (rs rw : Bool) (n : Nibble) (a b : Nat) :
    transfers [.xfer rs rw n a b] = [⟨rs, rw, n⟩] := rfl

@[simp] theorem transfers_illegalEv (w : ReqWord) (a : Nat) : transfers [.illegalEv w a] = [] := rfl

/-- Pin-level changes are no transfers. -/
@[simp] theorem transfers_changeTo (old new : Pins) (time : Nat) : transfers (old.changeTo new time) = [] := by
  unfold Pins.changeTo; split <;> rfl

@[simp] theorem transfers_reset (a : Nat) : transfers [.reset a] = [] := rfl

@[simp] theorem transfers_cutPulse (rs rw : Bool) (n : Nibble) (a b : Nat) :
    transfers [.cutPulse rs rw n a b] = [] := rfl

/-- An accepted request's transfers come before those of the later words. -/
theorem streamLines_request {w : ReqWord} {i : Instr} (h : decode w = .request i) (rs rw : Bool) (ws : List ReqWord) :
    streamLines rs rw (w :: ws) = i.lines rs rw ++ streamLines (i.rsAfter rs) (i.rwAfter rw) ws := by
  simp [streamLines, h]

/-- An illegal word has no transfer and changes no level. -/
theorem streamLines_illegal {w v : ReqWord} (h : decode w = .illegal v) (rs rw : Bool) (ws : List ReqWord) :
    streamLines rs rw (w :: ws) = streamLines rs rw ws := by
  simp [streamLines, h]

/-! ### Levels of the lines over time -/

@[simp] theorem levelsAt_nil (t : Nat) : levelsAt [] t = Pins.low := rfl

/-- An event changes no level. -/
theorem levelsAfter_event {ev : Event} (h : ev.isPinChange = false) (t : Nat) (p : Pins) : ev.levelsAfter t p = p := by
  cases ev <;> simp_all [Event.isPinChange, Event.levelsAfter]

@[simp] theorem levelsAfter_xfer (rs rw : Bool) (n : Nibble) (a b t : Nat) (p : Pins) :
    (Event.xfer rs rw n a b).levelsAfter t p = p := rfl

@[simp] theorem levelsAfter_illegalEv (w : ReqWord) (a t : Nat) (p : Pins) : (Event.illegalEv w a).levelsAfter t p = p := rfl

@[simp] theorem levelsAfter_reset (a t : Nat) (p : Pins) : (Event.reset a).levelsAfter t p = p := rfl

@[simp] theorem levelsAfter_cutPulse (rs rw : Bool) (n : Nibble) (a b t : Nat) (p : Pins) :
    (Event.cutPulse rs rw n a b).levelsAfter t p = p := rfl

@[simp] theorem levelsAfter_pinChange (q : Pins) (a t : Nat) (p : Pins) :
    (Event.pinChange q a).levelsAfter t p = if a ≤ t then q else p := rfl

/-- The last entry of a trace decides the levels at a time, or leaves them to the entries before it. -/
@[simp] theorem levelsAt_append_one (tr : List Event) (ev : Event) (t : Nat) :
    levelsAt (tr ++ [ev]) t = ev.levelsAfter t (levelsAt tr t) := by
  simp [levelsAt, List.foldl_append]

/-- The levels at a time with a drive's entry in the trace: the new ones from the drive's time on, the old ones before it. -/
theorem levelsAt_append_changeTo (tr : List Event) (old new : Pins) (time t : Nat) :
    levelsAt (tr ++ old.changeTo new time) t = if new = old then levelsAt tr t else if time ≤ t then new else levelsAt tr t := by
  unfold Pins.changeTo
  split
  · simp
  · rw [levelsAt_append_one]; rfl

/-- A drive now changes no level of the past. -/
theorem levelsAt_drive_past (s : State) (p : Pins) {t : Nat} (h : t < s.now) :
    levelsAt (s.drive p).trace t = levelsAt s.trace t := by
  rw [State.drive_trace, levelsAt_append_changeTo, if_neg (show ¬ s.now ≤ t by omega), ite_self]

/-- From now on the lines stand at the levels driven, if they stood at the latches' levels before. -/
theorem levelsAt_drive_now (s : State) (p : Pins) (hc : ∀ t, s.now ≤ t → levelsAt s.trace t = s.pin) {t : Nat}
    (h : s.now ≤ t) : levelsAt (s.drive p).trace t = p := by
  rw [State.drive_trace, levelsAt_append_changeTo, if_pos h, hc t h]
  split
  · exact Eq.symm ‹_›
  · rfl

end Sys2Proof.Machine
end

