-- ==== Sys2Proof/Laws/Step.lean ====
section
/-! SUPPORT. What an instruction and a step can do, said once (inversion lemmas), and the packaged induction over runs. -/

namespace Sys2Proof.Machine

/-! ### Every instruction is an acceptance with its own effect -/

theorem exec_sendByte (rs : Bool) (v : Byte) (s : State) :
    exec (.sendByte rs v) s = s.accept fun s => s.startByte rs v := rfl

theorem exec_sendNibble (n : Nibble) (s : State) :
    exec (.sendNibble n) s = s.accept fun s => s.startNibble n := rfl

theorem exec_setCtrl (rs : Bool) (s : State) :
    exec (.setCtrl rs) s = s.accept fun s => s.drive { s.pin with rs := rs, e := false, rw := false } := rfl

theorem exec_wait (ms : WaitCount) (s : State) :
    exec (.wait ms) s = s.accept fun s => if ms = 0 then s else s.startPhase .wait (waitDuration s.cfg ms) := rfl

theorem exec_clear (s : State) :
    exec .clear s = s.accept fun s => s.startByte false clearByte := rfl

theorem exec_home (s : State) :
    exec .home s = s.accept fun s => s.startByte false homeByte := rfl

theorem exec_entry (id sh : Bool) (s : State) :
    exec (.entry id sh) s = s.accept fun s => s.startByte false (entryByte id sh) := rfl

theorem exec_dispctl (d c b : Bool) (s : State) :
    exec (.dispctl d c b) s = s.accept fun s => s.startByte false (dispctlByte d c b) := rfl

theorem exec_shift (sc rl : Bool) (s : State) :
    exec (.shift sc rl) s = s.accept fun s => s.startByte false (shiftByte sc rl) := rfl

theorem exec_funcset (dl n f : Bool) (s : State) :
    exec (.funcset dl n f) s = s.accept fun s => s.startByte false (funcsetByte dl n f) := rfl

theorem exec_setcgram (a : BitVec 6) (s : State) :
    exec (.setcgram a) s = s.accept fun s => s.startByte false (setcgramByte a) := rfl

theorem exec_setddram (a : BitVec 7) (s : State) :
    exec (.setddram a) s = s.accept fun s => s.startByte false (setddramByte a) := rfl

theorem exec_putc (v : Byte) (s : State) :
    exec (.putc v) s = s.accept fun s => s.startByte true v := rfl

theorem exec_initReset8 (s : State) :
    exec .initReset8 s = s.accept fun s => s.startNibble initReset8Nibble := rfl

theorem exec_initSwitch4 (s : State) :
    exec .initSwitch4 s = s.accept fun s => s.startNibble initSwitch4Nibble := rfl

/-- What the request `i` does at acceptance, by the request that carries it. -/
inductive Effect (s : State) : Instr → State → Prop where
  | byte (rs : Bool) (v : Byte) (i : Instr) (h : i.core = .sendByte rs v) : Effect s i (s.startByte rs v)
  | nibble (n : Nibble) (i : Instr) (h : i.core = .sendNibble n) : Effect s i (s.startNibble n)
  | ctrl (rs : Bool) (i : Instr) (h : i.core = .setCtrl rs) :
      Effect s i (s.drive { s.pin with rs := rs, e := false, rw := false })
  | waitZero (i : Instr) (h : i.core = .wait 0) : Effect s i s
  | waitFor (ms : WaitCount) (i : Instr) (h : i.core = .wait ms) (h0 : ms ≠ 0) :
      Effect s i (s.startPhase .wait (waitDuration s.cfg ms))

/-- Every instruction in IDLE has the effect of the request that carries it. -/
theorem exec_effect {i : Instr} {s t : State} (hp : s.phase = .idle) (h : exec i s = .next t) : Effect s i t := by
  cases i <;>
    simp only [exec_sendByte, exec_sendNibble, exec_setCtrl, exec_wait, exec_clear, exec_home, exec_entry, exec_dispctl,
      exec_shift, exec_funcset, exec_setcgram, exec_setddram, exec_putc, exec_initReset8, exec_initSwitch4,
      accept_idle _ hp] at h <;>
    injection h with h <;> subst h
  case sendByte rs v => exact .byte _ _ _ rfl
  case sendNibble n => exact .nibble _ _ rfl
  case setCtrl rs => exact .ctrl _ _ rfl
  case wait ms =>
    by_cases h0 : ms = 0
    · rw [if_pos h0]; exact .waitZero _ (by rw [h0]; rfl)
    · rw [if_neg h0]; exact .waitFor _ _ rfl h0
  case initReset8 => exact .nibble _ _ rfl
  case initSwitch4 => exact .nibble _ _ rfl
  all_goals exact .byte _ _ _ rfl

/-- The ways a step can go, over the state `u` whose next move has been taken off the schedule. -/
inductive StepCase (s : State) : State → Prop where
  | reset (h : s.rst = true) : StepCase s s.takeReset
  | pass (k : Nat) (h : s.rst = false) (hm : s.nextMove = .pass k) : StepCase s (s.useMove.advance (k + 1))
  | present (h : s.rst = false) (hm : s.nextMove = .present) : StepCase s s.useMove.present
  | assertReset (h : s.rst = false) (hm : s.nextMove = .assertReset) : StepCase s s.useMove.assertReset
  | idleStutter (h : s.rst = false) (hm : s.nextMove = .act) (hp : s.phase = .idle) (hv : s.reqValid = false) :
      StepCase s s.useMove
  | accept (i : Instr) (t : State) (h : s.rst = false) (hm : s.nextMove = .act) (hp : s.phase = .idle)
      (hv : s.reqValid = true) (hd : decode s.reqWord = .request i) (he : Effect s.useMove.consume i t) : StepCase s t
  | illegal (w : ReqWord) (h : s.rst = false) (hm : s.nextMove = .act) (hp : s.phase = .idle) (hv : s.reqValid = true)
      (hd : decode s.reqWord = .illegal w) : StepCase s (s.useMove.consume.raiseIllegal w)
  | endPhase (h : s.rst = false) (hm : s.nextMove = .act) (hp : s.phase ≠ .idle) (he : s.min ≤ s.elapsed) :
      StepCase s s.useMove.endPhase
  | tooEarly (h : s.rst = false) (hm : s.nextMove = .act) (hp : s.phase ≠ .idle) (he : s.elapsed < s.min) :
      StepCase s s.useMove

/-- Every step is one of these. -/
theorem step_cases {s t : State} (h : step s = .next t) : StepCase s t := by
  unfold step at h
  split at h
  · injection h with h; subst h; exact .reset ‹_›
  · rename_i hr
    have hr : s.rst = false := by simpa using hr
    unfold State.perform at h
    split at h
    · injection h with h; subst h; exact .pass _ hr ‹_›
    · unfold State.act at h
      split at h
      · rename_i hp
        have hp : s.phase = .idle := by simpa using hp
        split at h
        · rename_i hv
          have hv : s.reqValid = true := by simpa using hv
          unfold State.acceptWord at h
          split at h
          · exact .accept _ _ hr ‹_› hp hv (useMove_reqWord s ▸ ‹decode _ = _›) (exec_effect (by simpa using hp) h)
          · injection h with h; subst h
            exact .illegal _ hr ‹_› hp hv (useMove_reqWord s ▸ ‹decode _ = _›)
        · injection h with h; subst h; exact .idleStutter hr ‹_› hp (by simp_all)
      · rename_i hp
        have hp : s.phase ≠ .idle := by simpa using hp
        split at h
        · injection h with h; subst h; exact .endPhase hr ‹_› hp (by simp_all)
        · injection h with h; subst h; exact .tooEarly hr ‹_› hp (by simp_all)
    · injection h with h; subst h; exact .present hr ‹_›
    · injection h with h; subst h; exact .assertReset hr ‹_›

/-- `run` is the host's run of the machine. -/
theorem run_eq_host_run (k : Nat) (s : State) : run k s = Host.Core.run core k s := by
  induction k generalizing s with
  | zero => rfl
  | succ k ih =>
    have hc : core.step s = step s := rfl
    simp only [run, Host.Core.run, hc]
    cases step s with
    | next t => exact ih t
    | fault r => rfl
    | refused r => rfl

/-- What every step keeps, a run keeps. -/
theorem run_keeps {P : State → Prop} (hstep : ∀ s t, P s → step s = .next t → P t) {k : Nat} {s t : State} (hs : P s)
    (h : run k s = .next t) : P t := by
  induction k generalizing s with
  | zero => injection h with h; exact h ▸ hs
  | succ k ih =>
    simp only [run] at h
    split at h
    · exact ih (hstep _ _ hs ‹_›) h
    · cases h
    · cases h

/-- One step and then the rest of a run. -/
theorem run_succ {k : Nat} {s t : State} (h : step s = .next t) : run (k + 1) s = run k t := by
  simp [run, h]

end Sys2Proof.Machine
end

