-- ==== Sys2Proof/Tests/Slice0.lean ====
section
/-! SUPPORT. The model's own tests: expected values from the vectors V1 to V16 of 95_test_vectors.md and from the rules, and, for
every statement with hypotheses, a witness that meets them (`test_met_…`). -/

namespace Sys2Proof.Tests

open Sys2Proof.Machine

/-! ### Small states -/

/-- The next state an outcome answers. -/
def nextOf : Outcome → Option State
  | .next t => some t
  | .fault _ => none
  | .refused _ => none

/-- What `nextOf` answers is the next state. -/
theorem eq_next {o : Outcome} {t : State} (h : nextOf o = some t) : o = .next t := by
  cases o <;> simp_all [nextOf]

/-- There is a next state with what a decidable check finds of it. -/
theorem ex_next {o : Outcome} (P : State → Prop) [DecidablePred P] (h : (nextOf o).any (fun t => decide (P t)) = true) :
    ∃ t, o = .next t ∧ P t := by
  cases o with
  | next t => exact ⟨t, rfl, by simpa [nextOf] using h⟩
  | fault r => simp [nextOf] at h
  | refused r => simp [nextOf] at h

/-- Short minimums, so that a test runs few moves. -/
def tiny : Config := ⟨1, 2, 3, 1, 4, 2, 1⟩

/-- An IDLE state with a stream and a schedule. -/
def fresh (ws : List ReqWord) (ms : List Move) : State := { State.reset with cfg := tiny, stream := ws, sched := ms }

/-- An IDLE state with a word presented. -/
def offered (w : ReqWord) (ms : List Move) : State := { fresh [] ms with reqValid := true, reqWord := w }

/-- A state in the middle of a request, RS high, `el` ns into a phase of minimum `mn`. -/
def busyAt (p : Phase) (mn el : Nat) (ms : List Move) : State :=
  { fresh [] ms with phase := p, min := mn, elapsed := el, now := 10, tRise := 9, pin := ⟨true, false, p == .pulse, 0xA⟩ }

/-- A host's schedule for one byte under the short minimums, every phase at its minimum. -/
def byteMoves : List Move :=
  [.act, .pass 0, .act, .pass 1, .act, .pass 2, .act, .pass 0, .act, .pass 1, .act, .pass 2, .act]

/-! ### WellFormed -/

theorem test_wellFormed_refuses_sendByte_of_every_payload_row :
    [(false, 0x01#8), (false, 0x02), (false, 0x05), (false, 0x0A), (false, 0x14), (false, 0x3C), (false, 0x7F), (false, 0xFF),
      (true, 0x00), (true, 0xFF)].all (fun x => !(Instr.sendByte x.1 x.2).wellFormed) = true := by decide

theorem test_wellFormed_refuses_sendNibble_of_init_nibbles :
    (Instr.sendNibble 0x3).wellFormed = false ∧ (Instr.sendNibble 0x2).wellFormed = false := by decide

theorem test_wellFormed_takes_bytes_no_row_takes :
    [0x00#8, 0x03, 0x11, 0x1F, 0x21, 0x3F].all (fun v => (Instr.sendByte false v).wellFormed) = true := by decide

theorem test_wellFormed_takes_other_nibbles :
    [0x0#4, 0x1, 0x4, 0xF].all (fun n => (Instr.sendNibble n).wellFormed) = true := by decide

/-! ### Decode: words written out from the bit patterns of R71 to R74 and the opcode table -/

theorem test_decode_sendByte : decode 0b0000000_0_00000011#16 = .request (.sendByte false 0x03) := by decide
theorem test_decode_sendNibble : decode 0b01_0000000000_1010#16 = .request (.sendNibble 0xA) := by decide
theorem test_decode_setCtrl : decode 0b10_0000_0_0_00000000#16 = .request (.setCtrl false) := by decide
theorem test_decode_wait : decode 0b11_11111111111111#16 = .request (.wait 16383) := by decide
theorem test_decode_clear : decode 0b0000000_0_0000_0001#16 = .request .clear := by decide
theorem test_decode_home : decode 0b0000000_0_0000_0010#16 = .request .home := by decide
theorem test_decode_entry : decode 0b0000000_0_0000_0101#16 = .request (.entry false true) := by decide
theorem test_decode_dispctl : decode 0b0000000_0_0000_1010#16 = .request (.dispctl false true false) := by decide
theorem test_decode_shift : decode 0b0000000_0_0001_0100#16 = .request (.shift false true) := by decide
theorem test_decode_funcset : decode 0b0000000_0_0011_0100#16 = .request (.funcset true false true) := by decide
theorem test_decode_setcgram : decode 0b0000000_0_0111_1000#16 = .request (.setcgram 0x38) := by decide
theorem test_decode_setddram : decode 0b0000000_0_1111_1111#16 = .request (.setddram 0x7F) := by decide
theorem test_decode_putc : decode 0b0000000_1_1111_1111#16 = .request (.putc 0xFF) := by decide
theorem test_decode_initReset8 : decode 0b0100_0000_0000_0011#16 = .request .initReset8 := by decide
theorem test_decode_initSwitch4 : decode 0b0100_0000_0000_0010#16 = .request .initSwitch4 := by decide

/-- V1's illegal words. -/
theorem test_decode_illegal :
    [0x0200#16, 0x0241, 0x0400, 0x3FFF, 0x4010, 0x7FFF, 0x8001, 0x8200, 0x8300].all (fun w => decode w == .illegal w) =
      true := by decide

/-- V1's legal words, as the four requests of R76. -/
theorem test_decodeCore_legal :
    decodeCore 0x0028 = .request (.sendByte false 0x28) ∧ decodeCore 0x01FF = .request (.sendByte true 0xFF) ∧
    decodeCore 0x4003 = .request (.sendNibble 0x3) ∧ decodeCore 0x8100 = .request (.setCtrl true) ∧
    decodeCore 0xC00A = .request (.wait 10) := by decide

/-- The bits of the table's three formats. -/
theorem test_decodeTableWord :
    decodeTableWord 16 0x8000 = some (.setCtrl false) ∧ decodeTableWord 16 0x010 = some (.shift false false) ∧
    decodeTableWord 8 0x3 = some .initReset8 ∧ decodeTableWord 8 0x2 = some .initSwitch4 ∧
    decodeTableWord 16 0x0200 = none := by decide

/-- V13: the class of a payload byte. -/
theorem test_payloadClass :
    payloadClass 0x000 = .noCommand ∧ payloadClass 0x003 = .command 1 ∧ payloadClass 0x01F = .command 4 ∧
    payloadClass 0x0FF = .command 7 ∧ payloadClass 0x100 = .data := by decide

/-- An assembly error is no word (R79). -/
theorem test_assemble_out_of_range :
    assemble (.sendCmd 256) = none ∧ assemble (.send4 16) = none ∧ assemble (.setctl 2) = none ∧
    assemble (.wait 16384) = none ∧ assemble (.setcgram 64) = none ∧ assemble (.setddram 128) = none ∧
    assemble (.entry 2 0) = none := by decide

/-- The 'H' of R158's example. -/
theorem test_assemble_character : assemble (.putc (.chr 'H')) = some [0x0148] := by decide

/-! ### One step of each request -/

/-- V4, first row. -/
theorem test_exec_sendByte : (nextOf (exec (.sendByte false 0x28) State.reset)).any (fun t =>
    t.pin == ⟨false, false, false, 0x2⟩ && t.phase == .setup && t.pend == some 0x8 && t.min == 1000) = true := by decide

/-- V3, first row, with RS carried over (R221). -/
theorem test_exec_sendNibble :
    (nextOf (exec (.sendNibble 0xF) { State.reset with pin := ⟨true, false, false, 0x1⟩ })).any (fun t =>
      t.pin == ⟨true, false, false, 0xF⟩ && t.phase == .setup && t.pend == none) = true := by decide

/-- V5, second row. -/
theorem test_exec_setCtrl :
    (nextOf (exec (.setCtrl false) { State.reset with pin := ⟨true, false, false, 0x9⟩ })).any (fun t =>
      t.pin == ⟨false, false, false, 0x9⟩ && t.phase == .idle && t.events == []) = true := by decide

/-- V6, last row. -/
theorem test_exec_wait : (nextOf (exec (.wait 16383) State.reset)).any (fun t =>
    t.phase == .wait && t.min == 16383000000 && t.pin == Pins.low) = true := by decide

/-- V7 to V11 and the examples of R150 to R158: the high nibble on the bus and the low nibble pending. -/
theorem test_exec_payloads :
    [(Instr.clear, false, 0x0#4, 0x1#4), (.home, false, 0x0, 0x2), (.entry true false, false, 0x0, 0x6),
      (.dispctl true true true, false, 0x0, 0xF), (.shift true true, false, 0x1, 0xC),
      (.funcset false true false, false, 0x2, 0x8), (.setcgram 0x08, false, 0x4, 0x8), (.setddram 0x40, false, 0xC, 0x0),
      (.putc 0x48, true, 0x4, 0x8)].all (fun x =>
      (nextOf (exec x.1 State.reset)).any fun t =>
        t.pin == ⟨x.2.1, false, false, x.2.2.1⟩ && t.pend == some x.2.2.2) = true := by decide

/-- R210, words 3 and 9. -/
theorem test_exec_init_nibbles :
    (nextOf (exec .initReset8 State.reset)).any (fun t => t.pin.d == 0x3 && t.pend == none) = true ∧
    (nextOf (exec .initSwitch4 State.reset)).any (fun t => t.pin.d == 0x2 && t.pend == none) = true := by decide

/-! ### One step of the machine -/

/-- The step after `withFetchWord` runs the table word's instruction. -/
theorem test_step_withFetchWord :
    (nextOf (step (State.reset.withFetchWord 16 0x0148))).any (fun t => t.pin == ⟨true, false, false, 0x4⟩) = true ∧
    (nextOf (step (State.reset.withFetchWord 8 0x3))).any (fun t => t.pin == ⟨false, false, false, 0x3⟩) = true := by
  decide

/-- V2, first row. -/
theorem test_step_illegal :
    (nextOf (step (State.reset.withFetchWord 16 0x0200))).any (fun t =>
      t.err && t.trace == [.illegalEv 0x0200 0] && t.pin == Pins.low && t.phase == .idle && t.now == 0) = true := by decide

/-- V3, the rising edge. -/
theorem test_step_end_of_setup :
    (nextOf (step { State.reset with
      phase := .setup, min := 1000, elapsed := 1000, now := 1000, sched := [.act], pin := ⟨false, false, false, 0x3⟩ })).any
      (fun t => t.pin.e && t.tRise == 1000 && t.phase == .pulse && t.min == 40000) = true := by decide

/-- V3, the falling edge. -/
theorem test_step_end_of_pulse :
    (nextOf (step { State.reset with
      phase := .pulse, min := 40000, elapsed := 40000, now := 41000, tRise := 1000, sched := [.act],
      pin := ⟨false, false, true, 0x3⟩ })).any
      (fun t => !t.pin.e && t.events == [.xfer false false 0x3 1000 41000] && t.phase == .settle && t.min == 40000000) =
      true := by decide

/-- V4, the start of the low nibble. -/
theorem test_step_end_of_settle :
    (nextOf (step { State.reset with
      phase := .settle, min := 40000000, elapsed := 40000000, now := 40041000, pend := some 0x8, sched := [.act],
      pin := ⟨false, false, false, 0x2⟩ })).any
      (fun t => t.pin.d == 0x8 && t.pend == none && t.phase == .setup) = true := by decide

/-- V15: a word presented to a busy NSER is held. -/
theorem test_step_busy_holds :
    (nextOf (step { busyAt .settle 3 1 [.act] with reqValid := true, reqWord := 0x0169 })).any (fun t =>
      t.reqValid && t.reqWord == 0x0169 && t.phase == .settle && !t.readyO) = true := by decide

/-- V16, first row. -/
theorem test_step_reset_in_pulse :
    (nextOf (step { State.reset with
      phase := .pulse, min := 40000, elapsed := 20000, now := 21000, tRise := 1000, pend := some 0x8, rst := true,
      pin := ⟨false, false, true, 0x2⟩ })).any
      (fun t => t.events == [.cutPulse false false 0x2 1000 21000, .reset 21000] && t.pend == none && t.pin == Pins.low &&
        t.phase == .idle && t.now == 21000) = true := by decide

/-- R28: the trace is one ordered list, so an illegal word before a change of RS in the same instant is not the reverse. -/
theorem test_trace_order_in_one_instant :
    (nextOf (run 4 (fresh [0x0200, 0x8100] [.present, .act, .present, .act]))).any (fun t =>
      t.trace == [.illegalEv 0x0200 0, .pinChange ⟨true, false, false, 0x0⟩ 0]) = true ∧
    (nextOf (run 4 (fresh [0x8100, 0x0200] [.present, .act, .present, .act]))).any (fun t =>
      t.trace == [.pinChange ⟨true, false, false, 0x0⟩ 0, .illegalEv 0x0200 0]) = true := by decide

/-! ### Host streams -/

/-- The waits of the initialization meet the duties of R6 at the defaults. -/
theorem test_init_waits_met : InitWaitsMet Config.default := by
  unfold InitWaitsMet; decide

/-- R212: a host that runs the initialization again after a reset meets its duty, one that goes on without it does not, nor does
one that breaks off the initialization for another request. -/
theorem test_initialization_after_every_reset :
    initDuty (words initStream) ((words initStream).map .accepted ++ [.accepted 0x0148, .reset] ++
      (words initStream).map .accepted ++ [.accepted 0x0148]) = true ∧
    initDuty (words initStream) ((words initStream).map .accepted ++ [.accepted 0x0148, .reset, .accepted 0x0148]) = false ∧
    initDuty (words initStream) ((words initStream).take 5 |>.map .accepted |>.append [.accepted 0x0148]) = false := by decide

/-- The same of runs: a reset between two words, then a word that is not the initialization's first. -/
theorem test_history_of_a_reset :
    history 5 (fresh [0xC1F4, 0x0148] [.present, .assertReset, .present, .act]) = [.reset, .accepted 0xC1F4] ∧
    history 5 (fresh [0x0148] [.present, .act, .assertReset, .pass 0]) = [.accepted 0x0148, .reset] := by decide

/-- The host's duty R212 can be met: the initialization and a text after it (P2). -/
theorem test_host_initializes_first : InitializesFirst (words (initStream ++ writeAscii true [0x48, 0x69])) :=
  ⟨words (writeAscii true [0x48, 0x69]), by decide⟩

/-- A history of accepted words. -/
def accepts (ws : List ReqWord) : List HostEvent := ws.map .accepted

/-- A run of the sequence is decided by looking at every length. -/
def decideInitRun (h : List HostEvent) (d : Nat) : Decidable (InitRun h d) := by
  unfold InitRun; infer_instance

/-- R222 is decided by looking at every event. -/
def decideNibblesPaired (h : List HostEvent) : Decidable (NibblesPaired h) :=
  have := decideInitRun
  have (k : Nat) : Decidable (∃ n, n ≤ k ∧ InitRun (h.drop n) (k - n)) :=
    Nat.decidableExistsLE (p := fun n => InitRun (h.drop n) (k - n)) k
  have (k : Nat) : Decidable (FourBitMode (h.take k)) := inferInstanceAs (Decidable (_ <:+: _))
  inferInstanceAs (Decidable (∀ k, k < h.length → h[k]?.any HostEvent.isNibble = true → FourBitMode (h.take k) →
    ∃ n, n ≤ k ∧ InitRun (h.drop n) (k - n)))

/-- Whether a history meets R222. -/
def paired (h : List HostEvent) : Bool := @decide _ (decideNibblesPaired h)

/-- `paired` answers as the duty says. -/
theorem paired_iff (h : List HostEvent) : paired h = true ↔ NibblesPaired h := @decide_eq_true_iff _ (decideNibblesPaired h)

/-- R222: what it does not forbid: a run cut off by a reset and run again (R212), an unfinished run, a second run after bytes that
a reset cuts off and a third one, and raw nibbles before 4-bit mode. -/
theorem test_nibblesPaired_takes :
    paired (accepts ((words initStream).take 3) ++ [.reset] ++ accepts (words initStream ++ [0x0148])) = true ∧
    paired (accepts (words initStream ++ (words initStream).take 5)) = true ∧
    paired (accepts (words initStream ++ [0x0148] ++ (words initStream).take 9) ++ [.reset] ++ accepts (words initStream)) =
      true ∧
    paired (accepts [0x4003, 0x4001, 0x0141]) = true := by decide +kernel

/-- R222: what it forbids: a raw nibble after the initialization, one between its words after word 9, one after a reset in place of
the sequence, and a second run broken off for a byte. -/
theorem test_nibblesPaired_refuses :
    paired (accepts (words initStream ++ [0x4003])) = false ∧
    paired (accepts ((words initStream).take 12 ++ [0x4005])) = false ∧
    paired (accepts (words initStream) ++ [.reset, .accepted 0x4003]) = false ∧
    paired (accepts (words initStream ++ (words initStream).take 4 ++ [0x0148])) = false := by decide +kernel

/-- R162, W13: no request for an index of 8. -/
theorem test_character_index_8_sends_nothing : words (setCgCharacter 8 (Vector.replicate 8 0)) = [] := by decide

/-! ### Witnesses for the statements about words -/

theorem test_met_DecodeOfEncode : (Instr.sendByte false 0x00).wellFormed = true ∧ (Instr.sendNibble 0xF).wellFormed = true ∧
    (Instr.putc 0x00).wellFormed = true ∧ (Instr.setddram 0x7F).wellFormed = true ∧ (Instr.wait 16383).wellFormed = true := by
  decide

theorem test_met_EncodeOfDecode : ∃ (w : ReqWord) (i : Instr), decode w = .request i := ⟨0xFFFF, .wait 16383, by decide⟩

theorem test_met_NamingKeepsTheRequest :
    (∃ (w : ReqWord) (i : Instr), decode w = .request i) ∧ ∃ w v : ReqWord, decode w = .illegal v :=
  ⟨⟨0x01FF, .putc 0xFF, by decide⟩, ⟨0x8300, 0x8300, by decide⟩⟩

/-- The operands at the ends of their ranges. -/
theorem test_met_PseudoInstructionsExpand :
    assemble (.entry 1 1) = some [0x0007] ∧ assemble (.dispctl 1 1 1) = some [0x000F] ∧
    assemble (.shift 1 1) = some [0x001C] ∧ assemble (.funcset 1 1 1) = some [0x003C] ∧
    assemble (.setcgram 63) = some [0x007F] ∧ assemble (.setddram 127) = some [0x00FF] ∧
    assemble (.setddram 0) = some [0x0080] := by decide

theorem test_met_PayloadBytesDetermineTheirOptions :
    entryByte true true = entryByte true true ∧ dispctlByte false false true = dispctlByte false false true ∧
    shiftByte true false = shiftByte true false ∧ funcsetByte true false true = funcsetByte true false true ∧
    setcgramByte 0x3F = setcgramByte 0x3F ∧ setddramByte 0x7F = setddramByte 0x7F := by decide

/-- The indexes and addresses where the clauses meet. -/
theorem test_met_CharacterProgrammingStream_and_OperationStreams :
    (words (setCgCharacter 7 (Vector.replicate 8 0x1F))).head? = some 0x0078 ∧
    (words (setCgCharacter 0 (Vector.replicate 8 0x1F))).head? = some 0x0040 ∧ (8 : Nat) ≤ 8 ∧
    (0x80 : Byte) ≤ 0x80 ∧ (0x80 : Byte) < 0x81 ∧ words (setCursorPos 0x7F) = [0x00FF] ∧ words (setCursorPos 0x81) = [] := by
  decide

/-! ### Witnesses for the statements about acceptance and reset -/

/-- IDLE, for the statements about an accepted request. -/
theorem test_met_requests_in_idle : ∃ (s : State) (ms : WaitCount), s.phase = .idle ∧ ms ≠ 0 ∧ s.pin.rs = true :=
  ⟨{ State.reset with pin := ⟨true, false, false, 0x9⟩ }, 1, by decide⟩

theorem test_met_BusyHoldsEveryRequest : ∃ s : State, s.phase ≠ .idle := ⟨busyAt .wait 5 1 [], by decide⟩

/-- A reset in PULSE and in IDLE with a word still waiting; and a word that decodes, for the request after it. -/
theorem test_met_ResetSetsEveryField :
    (∃ s t : State, s.rst = true ∧ s.phase = .pulse ∧ step s = .next t) ∧
    (∃ s t : State, s.rst = true ∧ s.phase = .idle ∧ s.waiting ≠ [] ∧ step s = .next t) ∧
    ∃ (w : ReqWord) (i : Instr), decode w = .request i := by
  refine ⟨?_, ?_, ⟨0x4002, .initSwitch4, by decide⟩⟩
  · exact ⟨{ busyAt .pulse 2 1 [] with rst := true }, _, by decide, by decide, rfl⟩
  · exact ⟨{ offered 0x0148 [] with rst := true }, _, by decide, by decide, by decide, rfl⟩

theorem test_met_FrameOfNibbleRequests : ∃ t, exec (.sendNibble 0x5) (fresh [] []) = .next t ∧ t.phase = .setup :=
  ex_next _ (by decide)

theorem test_met_FrameOfByteRequests : ∃ t, exec (.putc 0x41) (fresh [] []) = .next t ∧ t.pend = some 0x1 :=
  ex_next _ (by decide)

theorem test_met_FrameOfControlRequests :
    (∃ t, exec (.setCtrl true) (fresh [] []) = .next t ∧ t.pin.rs = true) ∧
    ∃ t, exec (.wait 9) (fresh [] []) = .next t ∧ t.phase = .wait :=
  ⟨ex_next _ (by decide), ex_next _ (by decide)⟩

theorem test_met_StepRunsTheDecodedRequest : ∃ (s : State) (ms : List Move) (i : Instr), s.rst = false ∧ s.sched = .act :: ms ∧
    s.phase = .idle ∧ s.reqValid = true ∧ decode s.reqWord = .request i ∧ i.wellFormed = true :=
  ⟨offered 0x0148 [.act], [], .putc 0x48, by decide⟩

theorem test_met_IllegalWordSetsTheErrorOnly :
    (∃ (s : State) (ms : List Move), s.rst = false ∧ s.sched = .act :: ms ∧ s.phase = .idle ∧ s.reqValid = true ∧
      isLegal s.reqWord = false) ∧
    (∃ w : ReqWord, w.extractLsb' 14 2 = 0b00 ∧ w.getLsbD 9 = true) ∧
    ∃ w : ReqWord, w.extractLsb' 14 2 = 0b10 ∧ w.getLsbD 9 = true :=
  ⟨⟨offered 0x8001 [.act], [], by decide⟩, ⟨0x0241, by decide⟩, ⟨0x8300, by decide⟩⟩

/-- An accepted illegal word sets the error. -/
theorem test_met_ErrorIsSticky : ∃ s t : State, s.rst = false ∧ step s = .next t ∧ s.err = false ∧ t.err = true := by
  obtain ⟨t, h, he⟩ := ex_next (o := step (offered 0x4010 [.act])) (fun t => t.err = true) (by decide)
  exact ⟨_, t, by decide, h, by decide, he⟩

/-- A word is taken in IDLE, and held in WAIT. -/
theorem test_met_AcceptsExactlyInIdle :
    (∃ t, step (offered 0xC001 [.act]) = .next t ∧ t.reqValid = false ∧ t.phase = .wait) ∧
    ∃ t, step { busyAt .wait 5 9 [.act] with reqValid := true } = .next t ∧ t.reqValid = true :=
  ⟨ex_next _ (by decide), ex_next _ (by decide)⟩

/-- The lines change at an acceptance, at the end of a phase and at reset. -/
theorem test_met_LinesChangeOnlyWhenDriven :
    (∃ t, step (offered 0x8100 [.act]) = .next t ∧ t.pin ≠ (offered 0x8100 [.act]).pin) ∧
    (∃ t, step (busyAt .setup 1 1 [.act]) = .next t ∧ t.pin ≠ (busyAt .setup 1 1 [.act]).pin) ∧
    ∃ t, step { busyAt .wait 1 1 [] with rst := true } = .next t ∧ t.pin ≠ (busyAt .wait 1 1 []).pin :=
  ⟨ex_next _ (by decide), ex_next _ (by decide), ex_next _ (by decide)⟩

/-- No word presented: one is presented by the step, and none is. -/
theorem test_met_WordIsReadOnlyWhenPresented :
    (∃ t, step (fresh [0x8100] [.present]) = .next t ∧ t.reqValid = true) ∧
    ∃ t, step (fresh [] [.act]) = .next t ∧ t.reqValid = false :=
  ⟨ex_next _ (by decide), ex_next _ (by decide)⟩

/-! ### Witnesses for the statements about phases -/

/-- Each phase at exactly its minimum, with NSER's move or with time passing. -/
theorem test_met_phase_ends :
    (∃ (s : State) (ms : List Move), s.rst = false ∧ s.sched = .act :: ms ∧ s.phase = .setup ∧ s.min ≤ s.elapsed) ∧
    (∃ (s : State) (k : Nat) (ms : List Move), s.rst = false ∧ s.sched = .pass k :: ms ∧ s.phase = .setup ∧
      s.min ≤ s.elapsed) ∧
    (∃ (s : State) (ms : List Move), s.rst = false ∧ s.sched = .act :: ms ∧ s.phase = .pulse ∧ s.min ≤ s.elapsed) ∧
    (∃ (s : State) (ms : List Move) (lo : Nibble), s.rst = false ∧ s.sched = .act :: ms ∧ s.phase = .settle ∧
      s.min ≤ s.elapsed ∧ s.pend = some lo) ∧
    (∃ (s : State) (ms : List Move), s.rst = false ∧ s.sched = .act :: ms ∧ s.phase = .settle ∧ s.min ≤ s.elapsed ∧
      s.pend = none) ∧
    (∃ (s : State) (ms : List Move), s.rst = false ∧ s.sched = .act :: ms ∧ s.phase = .wait ∧ s.min ≤ s.elapsed) ∧
    ∃ (s : State) (k : Nat) (ms : List Move), s.rst = false ∧ s.sched = .pass k :: ms ∧ s.phase = .wait ∧
      s.min ≤ s.elapsed :=
  ⟨⟨busyAt .setup 1 1 [.act], [], by decide⟩, ⟨busyAt .setup 1 1 [.pass 6], 6, [], by decide⟩,
    ⟨busyAt .pulse 2 2 [.act], [], by decide⟩,
    ⟨{ busyAt .settle 3 3 [.act] with pend := some 0x5 }, [], 0x5, by decide⟩,
    ⟨busyAt .settle 3 3 [.act], [], by decide⟩, ⟨busyAt .wait 9 9 [.act], [], by decide⟩,
    ⟨busyAt .wait 9 9 [.pass 0], 0, [], by decide⟩⟩

/-- One ns before the minimum, whatever the move. -/
theorem test_met_NoPhaseEndsBeforeItsMinimum : ∃ s t : State, s.rst = false ∧ s.phase ≠ .idle ∧ s.elapsed < s.min ∧
    step s = .next t := ⟨busyAt .pulse 2 1 [.act], _, by decide, by decide, by decide, rfl⟩

/-- Time passes in IDLE, and a phase lasts exactly its minimum. -/
theorem test_met_TimePassesFreely :
    (∃ t, step (fresh [] [.pass 4]) = .next t ∧ t.now = 5 ∧ t.elapsed = 0) ∧
    (∃ t, step (busyAt .wait 5 0 [.act]) = .next t ∧ t.now = 10) ∧
    ∃ (s : State) (d : Nat) (ms : List Move), s.rst = false ∧ s.phase ≠ .idle ∧ s.elapsed = 0 ∧ 1 ≤ d ∧ s.min ≤ d ∧
      s.sched = .pass (d - 1) :: .act :: ms :=
  ⟨ex_next _ (by decide), ex_next _ (by decide), ⟨busyAt .settle 3 0 [.pass 2, .act], 3, [], by decide⟩⟩

/-! ### Witnesses for the invariants -/

/-- An IDLE state with any stream and schedule meets the invariants. -/
theorem fresh_inv (ws : List ReqWord) (ms : List Move) : Inv (fresh ws ms) := by
  constructor <;> simp [fresh, State.reset, Pins.low]

theorem fresh_timing (ws : List ReqWord) (ms : List Move) : TimingInv (fresh ws ms) := by
  constructor <;> simp [fresh, State.reset, PulsesLongEnough, TransfersSpaced]

theorem fresh_level (ws : List ReqWord) (ms : List Move) : LevelInv (fresh ws ms) := by
  constructor <;> simp [fresh, State.reset, LevelsHeld]

/-- A byte under the short minimums, from its presentation to IDLE. -/
def byteRun : State := fresh [0x0148] (.present :: byteMoves)

/-- The trace of its first transfer: RS at acceptance, then D, then E's edges (V4's order, under the short minimums). -/
def highTrace : List Event :=
  [.pinChange ⟨true, false, false, 0x0⟩ 0, .pinChange ⟨true, false, false, 0x4⟩ 0, .pinChange ⟨true, false, true, 0x4⟩ 1,
    .pinChange ⟨true, false, false, 0x4⟩ 3]

/-- The trace between its two transfers. -/
def lowTrace : List Event :=
  [.pinChange ⟨true, false, false, 0x8⟩ 6, .pinChange ⟨true, false, true, 0x8⟩ 7, .pinChange ⟨true, false, false, 0x8⟩ 9]

theorem test_byteRun : ∃ t, run 14 byteRun = .next t ∧
    t.trace = highTrace ++ Event.xfer true false 0x4 1 3 :: (lowTrace ++ [Event.xfer true false 0x8 7 9]) ∧
    t.phase = .idle ∧ t.waiting = [] ∧ t.now = 12 ∧ t.err = false :=
  ex_next _ (by decide)

/-- IDLE and SETTLE with the invariant. -/
theorem test_met_BeginNibbleStartsSetup : (∃ s : State, Inv s ∧ s.phase = .idle) ∧ ∃ s : State, Inv s ∧ s.phase = .settle :=
  ⟨⟨fresh [] [], fresh_inv _ _, by decide⟩,
    ⟨busyAt .settle 3 1 [], by constructor <;> simp [busyAt, fresh, State.reset, tiny], by decide⟩⟩

/-- Busy in SETUP, with a step that raises E. -/
theorem test_met_StepKeepsTheFieldInvariant : ∃ s t : State, Inv s ∧ step s = .next t ∧ t.pin.e = true := by
  obtain ⟨t, h, he⟩ := ex_next (o := step (busyAt .setup 1 1 [.act])) (fun t => t.pin.e = true) (by decide)
  exact ⟨_, t, by constructor <;> simp [busyAt, fresh, State.reset, tiny], h, he⟩

/-- The three invariants, no reset, no illegal word to come, and a next state in which time has passed. -/
theorem test_met_step_keeps : ∃ s t : State, Inv s ∧ TimingInv s ∧ LevelInv s ∧ s.rst = false ∧ s.endErr = false ∧
    s.waiting ≠ [] ∧ step s = .next t ∧ t.now = 8 := by
  obtain ⟨t, h, he⟩ := ex_next (o := step (fresh [0x0148] [.pass 7])) (fun t => t.now = 8) (by decide)
  exact ⟨_, t, fresh_inv _ _, fresh_timing _ _, fresh_level _ _, by decide, by decide, by decide, h, he⟩

/-- Legal words of each of the four requests. -/
theorem test_met_StreamTransferCount : ∃ ws : List ReqWord, ws ≠ [] ∧ ∀ w ∈ ws, isLegal w = true :=
  ⟨[0x01FF, 0x4000, 0x8100, 0xFFFF], by simp, by simp only [← List.all_eq_true]; rfl⟩

/-- A run with two transfers, and a time in the window of the first, at its rising edge. -/
theorem test_met_RunsHoldLevelsAndSpacing : ∃ (k : Nat) (s t : State), Inv s ∧ TimingInv s ∧ LevelInv s ∧
    run k s = .next t ∧
    (∃ l m rs rw n a b, t.trace = l ++ Event.xfer rs rw n a b :: m ∧ (∀ r, Event.reset r ∈ m → b + t.cfg.tSettleMin ≤ r) ∧
      ∃ u, a ≤ u + t.cfg.tSuMin ∧ u < b + t.cfg.tSettleMin ∧ u < t.now) ∧
    ∃ l m r rs rw n a b rs' rw' n' a' b',
      t.trace = l ++ Event.xfer rs rw n a b :: (m ++ Event.xfer rs' rw' n' a' b' :: r) ∧ NoReset m := by
  obtain ⟨t, h, ht, -, -, hn, -⟩ := test_byteRun
  have hc : t.cfg = tiny := by
    obtain ⟨t', h', hc⟩ := ex_next (o := run 14 byteRun) (fun t => t.cfg = tiny) (by decide)
    rw [h] at h'; injection h' with h'; rw [h']; exact hc
  refine ⟨14, byteRun, t, fresh_inv _ _, fresh_timing _ _, fresh_level _ _, h, ?_, ?_⟩
  · exact ⟨highTrace, _, true, false, 0x4, 1, 3, ht, by simp [lowTrace], 1, by rw [hc, hn]; decide⟩
  · exact ⟨highTrace, lowTrace, [], true, false, 0x4, 1, 3, true, false, 0x8, 7, 9, ht, by simp [NoReset, lowTrace]⟩

/-- A schedule without a reset that performs the byte whole; the same witness serves two schedules that perform it. -/
theorem test_met_CompletedRunsMakeExactlyTheOwedTransfers : ∃ (k : Nat) (s t : State), Inv s ∧ s.rst = false ∧
    k ≤ s.sched.length ∧ (∀ m ∈ s.sched, m ≠ .assertReset) ∧ run k s = .next t ∧ t.done ∧ t.noError ∧
    t.trace ≠ [] := by
  obtain ⟨t, h, ht, hp, hw, -, he⟩ := test_byteRun
  exact ⟨14, byteRun, t, fresh_inv _ _, by decide, by decide, by decide, h, ⟨hp, hw⟩, he, by rw [ht]; simp [highTrace]⟩

/-- The same state, with no illegal word among those it will perform. -/
theorem test_met_EveryStreamCanComplete : ∃ s : State, Inv s ∧ s.rst = false ∧ s.waiting ≠ [] ∧ s.endErr = false :=
  ⟨byteRun, fresh_inv _ _, by decide⟩

/-- The same byte with a longer SETUP: another schedule that performs it. -/
theorem test_met_TransfersDoNotDependOnDurations : ∃ t t',
    run 14 byteRun = .next t ∧ t.done ∧ t.noError ∧
    run 15 { byteRun with sched := .pass 8 :: .present :: byteMoves } = .next t' ∧ t'.done ∧ t.now ≠ t'.now := by
  obtain ⟨t, h, -, hp, hw, hn, he⟩ := test_byteRun
  obtain ⟨t', h', hp', hw', hn'⟩ := ex_next (o := run 15 { byteRun with sched := .pass 8 :: .present :: byteMoves })
    (fun t => t.phase = .idle ∧ t.waiting = [] ∧ t.now = 21) (by decide)
  exact ⟨t, t', h, ⟨hp, hw⟩, he, h', ⟨hp', hw'⟩, by rw [hn, hn']; decide⟩

/-- The schedule of a host that presents the initialization words, with six phases of `d` + 1 ns after each. -/
def initMoves (d : Nat) : List Move :=
  (List.replicate 21 ([Move.present, .act] ++ (List.replicate 6 [Move.pass d, .act]).flatten)).flatten

theorem test_met_InitializationEndsInItsState : ∃ (k : Nat) (s t : State), Inv s ∧ s.rst = false ∧ s.phase = .idle ∧
    s.noError ∧ s.reqValid = false ∧ s.stream = words initStream ∧ k ≤ s.sched.length ∧
    (∀ m ∈ s.sched, m ≠ .assertReset) ∧ run k s = .next t ∧ t.done := by
  obtain ⟨t, h, hp, hw⟩ := ex_next (o := run 294 (fresh (words initStream) (initMoves 499)))
    (fun t => t.phase = .idle ∧ t.waiting = []) (by decide +kernel)
  exact ⟨294, _, t, fresh_inv _ _, by decide, by decide, by simp [fresh, State.reset, State.noError], by decide, rfl,
    by decide +kernel, by decide +kernel, h, hp, hw⟩

/-- The same at the parameters of R6, for the clause that gives a number. -/
theorem test_met_InitializationEndsInItsState_at_the_defaults : ∃ (k : Nat) (s t : State), Inv s ∧ s.rst = false ∧
    s.phase = .idle ∧ s.noError ∧ s.reqValid = false ∧ s.stream = words initStream ∧ k ≤ s.sched.length ∧
    (∀ m ∈ s.sched, m ≠ .assertReset) ∧ run k s = .next t ∧ t.done ∧ s.cfg = Config.default := by
  obtain ⟨t, h, hp, hw⟩ := ex_next
    (o := run 294 { fresh (words initStream) (initMoves 499999999) with cfg := Config.default })
    (fun t => t.phase = .idle ∧ t.waiting = []) (by decide +kernel)
  exact ⟨294, _, t, by constructor <;> simp [fresh, State.reset, Pins.low], by decide, by decide,
    by simp [fresh, State.reset, State.noError], by decide, rfl, by decide +kernel, by decide +kernel, h, ⟨hp, hw⟩, rfl⟩

/-! ### Witnesses for whole requests -/

theorem test_met_SendNibbleRunsToIdle : ∃ (s : State) (i : Instr) (n : Nibble) (d₁ d₂ d₃ : Nat) (ms : List Move),
    s.rst = false ∧ s.phase = .idle ∧ s.reqValid = true ∧ decode s.reqWord = .request i ∧ i.core = .sendNibble n ∧
    s.cfg.tSuMin ≤ d₁ + 1 ∧ s.cfg.tPwMin ≤ d₂ + 1 ∧ s.cfg.tSettleMin ≤ d₃ + 1 ∧
    s.sched = .act :: .pass d₁ :: .act :: .pass d₂ :: .act :: .pass d₃ :: .act :: ms :=
  ⟨offered 0x4003 [.act, .pass 0, .act, .pass 1, .act, .pass 2, .act], .initReset8, 0x3, 0, 1, 2, [], by decide⟩

theorem test_met_SendByteRunsToIdle : ∃ (s : State) (i : Instr) (rs : Bool) (v : Byte) (d₁ d₂ d₃ d₄ d₅ d₆ : Nat)
    (ms : List Move), s.rst = false ∧ s.phase = .idle ∧ s.reqValid = true ∧ decode s.reqWord = .request i ∧
    i.core = .sendByte rs v ∧ s.cfg.tSuMin ≤ d₁ + 1 ∧ s.cfg.tPwMin ≤ d₂ + 1 ∧ s.cfg.tSettleMin ≤ d₃ + 1 ∧
    s.cfg.tSuMin ≤ d₄ + 1 ∧ s.cfg.tPwMin ≤ d₅ + 1 ∧ s.cfg.tSettleMin ≤ d₆ + 1 ∧
    s.sched = .act :: .pass d₁ :: .act :: .pass d₂ :: .act :: .pass d₃ :: .act ::
      .pass d₄ :: .act :: .pass d₅ :: .act :: .pass d₆ :: .act :: ms :=
  ⟨offered 0x0148 byteMoves, .putc 0x48, true, 0x48, 0, 1, 2, 0, 1, 2, [], by decide⟩

theorem test_met_WaitRunsToIdle : ∃ (s : State) (m : WaitCount) (d : Nat) (ms : List Move), s.rst = false ∧
    s.phase = .idle ∧ s.reqValid = true ∧ decode s.reqWord = .request (.wait m) ∧ m ≠ 0 ∧
    m.toNat * s.cfg.waitUnit ≤ d + 1 ∧ s.sched = .act :: .pass d :: .act :: ms :=
  ⟨offered 0xC00A [.act, .pass 9, .act], 10, 9, [], by decide⟩

theorem test_met_ByteIsTwoNibblesUnderItsRs : ∃ (s : State) (d₁ d₂ d₃ d₄ d₅ d₆ : Nat), Inv s ∧ s.rst = false ∧
    s.phase = .idle ∧ s.reqValid = false ∧ s.cfg.tSuMin ≤ d₁ + 1 ∧ s.cfg.tPwMin ≤ d₂ + 1 ∧ s.cfg.tSettleMin ≤ d₃ + 1 ∧
    s.cfg.tSuMin ≤ d₄ + 1 ∧ s.cfg.tPwMin ≤ d₅ + 1 ∧ s.cfg.tSettleMin ≤ d₆ + 1 ∧
    ∃ t, run 14 { s with
      stream := words [.sendByte true 0x48],
      sched := [.present, .act, .pass d₁, .act, .pass d₂, .act, .pass d₃, .act, .pass d₄, .act, .pass d₅, .act, .pass d₆,
        .act] } = .next t ∧ t.noError := by
  obtain ⟨t, h, -, -, -, -, he⟩ := test_byteRun
  exact ⟨fresh [] [], 0, 1, 2, 0, 1, 2, fresh_inv _ _, by decide, by decide, by decide, by decide, by decide, by decide,
    by decide, by decide, by decide, t, h, he⟩

end Sys2Proof.Tests
end

section
/-! Lemmas about the state (10_state.md): what the host's move, a drive and the end of a phase change, what a step does with a
presented word, and which operations keep the invariant of NSER's fields. -/

namespace Sys2Proof.Machine

variable {s t : State}

/-! ### What an operation changes -/

/-- Presenting changes only the request lines and the host's stream. -/
theorem present_eq (s : State) : s.present =
    { s with reqValid := s.present.reqValid, reqWord := s.present.reqWord, stream := s.present.stream } := by
  rcases present_cases s with ⟨w, ws, -, -, he⟩ | he <;> rw [he]

@[simp] theorem present_cfg (s : State) : s.present.cfg = s.cfg := by rw [present_eq]
@[simp] theorem present_pin (s : State) : s.present.pin = s.pin := by rw [present_eq]
@[simp] theorem present_phase (s : State) : s.present.phase = s.phase := by rw [present_eq]
@[simp] theorem present_pend (s : State) : s.present.pend = s.pend := by rw [present_eq]
@[simp] theorem present_min (s : State) : s.present.min = s.min := by rw [present_eq]
@[simp] theorem present_elapsed (s : State) : s.present.elapsed = s.elapsed := by rw [present_eq]
@[simp] theorem present_err (s : State) : s.present.err = s.err := by rw [present_eq]
@[simp] theorem present_now (s : State) : s.present.now = s.now := by rw [present_eq]
@[simp] theorem present_tRise (s : State) : s.present.tRise = s.tRise := by rw [present_eq]
@[simp] theorem present_trace (s : State) : s.present.trace = s.trace := by rw [present_eq]
@[simp] theorem present_rst (s : State) : s.present.rst = s.rst := by rw [present_eq]
@[simp] theorem present_sched (s : State) : s.present.sched = s.sched := by rw [present_eq]
@[simp] theorem present_draws (s : State) : s.present.draws = s.draws := by rw [present_eq]

/-- A word that is still presented is kept (R193). -/
theorem present_of_reqValid (hv : s.reqValid = true) : s.present = s := by simp [State.present, hv]

/-- A drive records one change when a level changes, and nothing otherwise (R28). -/
theorem drive_trace_cases (s : State) (p : Pins) :
    (p = s.pin ∧ (s.drive p).trace = s.trace) ∨
      (p ≠ s.pin ∧ (s.drive p).trace = s.trace ++ [.pinChange p s.now]) := by
  by_cases h : p = s.pin
  · exact .inl ⟨h, by simp [Pins.changeTo, h]⟩
  · exact .inr ⟨h, by simp [Pins.changeTo, h]⟩

/-- The ways a phase other than IDLE can end (R103, R104, R105, R132). -/
inductive PhaseEnd (s : State) : State → Prop where
  | setup (hp : s.phase = .setup) : PhaseEnd s s.endSetup
  | pulse (hp : s.phase = .pulse) : PhaseEnd s s.endPulse
  | settlePending (lo : Nibble) (hp : s.phase = .settle) (hl : s.pend = some lo) :
      PhaseEnd s ((s.setPend none).beginNibble lo)
  | settleLast (hp : s.phase = .settle) (hl : s.pend = none) : PhaseEnd s s.toIdle
  | wait (hp : s.phase = .wait) : PhaseEnd s s.endWait

theorem phaseEnd_endPhase (h : s.phase ≠ .idle) : PhaseEnd s s.endPhase := by
  unfold State.endPhase
  split
  case h_1 hp => exact absurd hp h
  case h_2 hp => exact .setup hp
  case h_3 hp => exact .pulse hp
  case h_4 hp =>
    unfold State.endSettle
    split
    · exact .settlePending _ hp ‹_›
    · exact .settleLast hp ‹_›
  case h_5 hp => exact .wait hp

/-- The end of a phase leaves the request lines as they are. -/
theorem PhaseEnd.request_eq (h : PhaseEnd s t) : t.reqValid = s.reqValid ∧ t.reqWord = s.reqWord := by
  cases h <;> exact ⟨rfl, rfl⟩

/-- A request's effect leaves `req_valid` as it is. -/
theorem Effect.reqValid_eq {i : Instr} (h : Effect s i t) : t.reqValid = s.reqValid := by
  cases h <;> rfl

/-! ### What a step does with a presented word -/

/-- NSER's own move in IDLE runs the request that a presented word decodes to (R31, R76). -/
theorem act_request {i : Instr} (hp : s.phase = .idle) (hv : s.reqValid = true) (hd : decode s.reqWord = .request i) :
    s.act = exec i s.consume := by
  simp [State.act, State.acceptWord, hp, hv, hd]

/-- Without a reset a step performs the scheduled move. -/
theorem step_of_sched {m : Move} {ms : List Move} (hr : s.rst = false) (hs : s.sched = m :: ms) :
    step s = ({ s with sched := ms } : State).perform m := by
  simp [step, hr, nextMove_of_sched hs, useMove_of_sched hs]

/-- NSER's own move in IDLE takes the presented word (R31), legal or not. -/
theorem step_takes_word (hr : s.rst = false) (hm : s.nextMove = .act) (hp : s.phase = .idle) (hv : s.reqValid = true)
    (hstep : step s = .next t) : t.reqValid = false := by
  cases step_cases hstep with
  | reset h => simp [hr] at h
  | pass _ _ h => simp [hm] at h
  | present _ h => simp [hm] at h
  | assertReset _ h => simp [hm] at h
  | idleStutter _ _ _ h => simp [hv] at h
  | accept _ _ _ _ _ _ _ he => exact he.reqValid_eq
  | illegal => rfl
  | endPhase _ _ h => exact absurd hp h
  | tooEarly _ _ h => exact absurd hp h

/-- Any other step without a reset holds the presented word (R31, R193). -/
theorem step_holds_word (hr : s.rst = false) (hn : ¬ (s.nextMove = .act ∧ s.phase = .idle)) (hv : s.reqValid = true)
    (hstep : step s = .next t) : t.reqValid = true ∧ t.reqWord = s.reqWord := by
  cases step_cases hstep with
  | reset h => simp [hr] at h
  | pass => simp [hv]
  | present => rw [present_of_reqValid (by simpa using hv)]; simp [hv]
  | assertReset => simp [hv]
  | idleStutter _ hm hp => exact absurd ⟨hm, hp⟩ hn
  | accept _ _ _ hm hp => exact absurd ⟨hm, hp⟩ hn
  | illegal _ _ hm hp => exact absurd ⟨hm, hp⟩ hn
  | endPhase _ _ hp =>
    obtain ⟨hvalid, hword⟩ := (phaseEnd_endPhase (s := s.useMove) (by simpa using hp)).request_eq
    simp [hvalid, hword, hv]
  | tooEarly => simp [hv]

/-! ### The invariant of the fields, phase by phase -/

/-- The invariant speaks of NSER's own fields and the parameters only. -/
theorem Inv.congr (h : Inv s) (hcfg : t.cfg = s.cfg) (hpin : t.pin = s.pin) (hphase : t.phase = s.phase)
    (hpend : t.pend = s.pend) (hmin : t.min = s.min) (helapsed : t.elapsed = s.elapsed) : Inv t := by
  obtain ⟨rwLow, eHigh, idle, setup, pulse, settle, wait, pend⟩ := h
  constructor <;> simpa only [hcfg, hpin, hphase, hpend, hmin, helapsed]

/-- Outside PULSE E is low (R115). -/
theorem Inv.e_low (h : Inv s) (hp : s.phase ≠ .pulse) : s.pin.e = false := by
  simpa using mt h.eHighInPulse.1 hp

/-- Outside a strobe no nibble is pending (R25). -/
theorem Inv.pend_none (h : Inv s) (hp : s.phase = .idle ∨ s.phase = .wait) : s.pend = none := by
  have hn := mt h.pendInStrobe (by rcases hp with hp | hp <;> simp [hp])
  simpa using hn

theorem inv_of_idle (hp : s.phase = .idle) (hrw : s.pin.rw = false) (he : s.pin.e = false) (hn : s.pend = none)
    (hm : s.min = 0) (hel : s.elapsed = 0) : Inv s := by
  constructor <;> simp [*]

theorem inv_of_setup (hp : s.phase = .setup) (hrw : s.pin.rw = false) (he : s.pin.e = false)
    (hm : s.min = s.cfg.tSuMin) : Inv s := by
  constructor <;> simp [*]

theorem inv_of_pulse (hp : s.phase = .pulse) (hrw : s.pin.rw = false) (he : s.pin.e = true)
    (hm : s.min = s.cfg.tPwMin) : Inv s := by
  constructor <;> simp [*]

theorem inv_of_settle (hp : s.phase = .settle) (hrw : s.pin.rw = false) (he : s.pin.e = false)
    (hm : s.min = s.cfg.tSettleMin) : Inv s := by
  constructor <;> simp [*]

theorem inv_of_wait (hp : s.phase = .wait) (hrw : s.pin.rw = false) (he : s.pin.e = false) (hn : s.pend = none)
    {ms : WaitCount} (h0 : ms ≠ 0) (hm : s.min = waitDuration s.cfg ms) : Inv s where
  rwLow := hrw
  eHighInPulse := by simp [*]
  idleZero := by simp [*]
  setupMin := by simp [*]
  pulseMin := by simp [*]
  settleMin := by simp [*]
  waitMin _ := ⟨ms, h0, hm⟩
  pendInStrobe := by simp [*]

/-! ### The invariant is kept -/

theorem takeReset_inv (s : State) : Inv s.takeReset := by
  rw [takeReset_eq]
  exact inv_of_idle rfl rfl rfl rfl rfl rfl

theorem useMove_inv (h : Inv s) : Inv s.useMove := h.congr (by simp) (by simp) (by simp) (by simp) (by simp) (by simp)

theorem present_inv (h : Inv s) : Inv s.present := h.congr (by simp) (by simp) (by simp) (by simp) (by simp) (by simp)

theorem assertReset_inv (h : Inv s) : Inv s.assertReset := h.congr rfl rfl rfl rfl rfl rfl

theorem consume_inv (h : Inv s) : Inv s.consume := h.congr rfl rfl rfl rfl rfl rfl

theorem raiseIllegal_inv (h : Inv s) (w : ReqWord) : Inv (s.raiseIllegal w) := h.congr rfl rfl rfl rfl rfl rfl

/-- Time that passes in IDLE is not counted, and in another phase the invariant does not speak of `elapsed`. -/
theorem advance_inv (h : Inv s) (δ : Nat) : Inv (s.advance δ) := by
  by_cases hp : s.phase = .idle
  · exact h.congr rfl rfl rfl rfl rfl (by simp [hp])
  · exact { h with idleZero := fun hi => absurd hi hp }

/-- Every request accepted in IDLE keeps the invariant. -/
theorem Effect.inv {i : Instr} (h : Effect s i t) (hi : Inv s) (hp : s.phase = .idle) : Inv t := by
  have he : s.pin.e = false := hi.e_low (by simp [hp])
  have hn : s.pend = none := hi.pend_none (.inl hp)
  obtain ⟨hmin, helapsed⟩ := hi.idleZero hp
  cases h with
  | byte rs v => exact inv_of_setup rfl rfl rfl rfl
  | nibble n => exact inv_of_setup rfl hi.rwLow rfl rfl
  | ctrl rs => exact inv_of_idle hp rfl rfl hn hmin helapsed
  | waitZero => exact hi
  | waitFor ms _ _ h0 => exact inv_of_wait rfl hi.rwLow he hn h0 rfl

/-- The end of every phase keeps the invariant. -/
theorem PhaseEnd.inv (h : PhaseEnd s t) (hi : Inv s) : Inv t := by
  cases h with
  | setup => exact inv_of_pulse rfl hi.rwLow rfl rfl
  | pulse => exact inv_of_settle rfl hi.rwLow rfl rfl
  | settlePending lo => exact inv_of_setup rfl hi.rwLow rfl rfl
  | settleLast hp hl => exact inv_of_idle rfl hi.rwLow (hi.e_low (by simp [hp])) hl rfl rfl
  | wait hp => exact inv_of_idle rfl hi.rwLow (hi.e_low (by simp [hp])) (hi.pend_none (.inr hp)) rfl rfl

end Sys2Proof.Machine
end

section
/-! The statements about the state, settled from the lemmas above. -/

namespace Sys2Proof.Machine

/-- Settles O42: reset and every move keep the invariant, each by the lemma about what it does. -/
theorem stepKeepsTheFieldInvariant : Obligations.StepKeepsTheFieldInvariant := by
  intro s t hs hstep
  have hu : Inv s.useMove := useMove_inv hs
  cases step_cases hstep with
  | reset => exact takeReset_inv s
  | pass k => exact advance_inv hu _
  | present => exact present_inv hu
  | assertReset => exact assertReset_inv hu
  | idleStutter => exact hu
  | accept i _ _ _ hp _ _ he => exact he.inv (consume_inv hu) (by simpa using hp)
  | illegal w => exact raiseIllegal_inv (consume_inv hu) w
  | endPhase _ _ hp => exact (phaseEnd_endPhase (by simpa using hp)).inv hu
  | tooEarly => exact hu

/-- Settles O46: every state of the run has the invariant (O42). -/
theorem runsKeepRwLowAndEnableInPulseOnly : Obligations.RunsKeepRwLowAndEnableInPulseOnly := by
  intro k s t hs hrun
  have ht : Inv t := run_keeps stepKeepsTheFieldInvariant hs hrun
  refine ⟨ht.rwLow, ht.eHighInPulse, fun hp => ht.e_low ?_⟩
  rcases hp with hp | hp | hp | hp <;> simp [hp]

/-- Settles O32: before the minimum NSER's own move is not enabled, and no other move ends a phase. -/
theorem noPhaseEndsBeforeItsMinimum : Obligations.NoPhaseEndsBeforeItsMinimum := by
  intro s t hr hbusy hearly hstep
  cases step_cases hstep with
  | reset h => simp [hr] at h
  | pass k => simp [hbusy]
  | present => simp
  | assertReset => simp
  | idleStutter _ _ hp => exact absurd hp hbusy
  | accept _ _ _ _ hp => exact absurd hp hbusy
  | illegal _ _ _ hp => exact absurd hp hbusy
  | endPhase _ _ _ hdue => omega
  | tooEarly => simp

/-- Settles O37: NSER's own move in IDLE takes the word, and every other step without a reset holds it. -/
theorem acceptsExactlyInIdle : Obligations.AcceptsExactlyInIdle := by
  refine ⟨fun s t hr hstep => ⟨fun ⟨hv, htaken⟩ => ⟨hv, ?_⟩, fun ⟨hv, hm, hp⟩ => ⟨hv, step_takes_word hr hm hp hv hstep⟩⟩,
    fun s t hr hbusy hv hstep => step_holds_word hr (fun h => hbusy h.2) hv hstep⟩
  by_contra hn
  have hheld := (step_holds_word hr hn hv hstep).1
  simp [htaken] at hheld

/-- Settles O38: of the cases of a step only reset, the acceptance of a legal word and the end of a phase touch the pins. -/
theorem linesChangeOnlyWhenDriven : Obligations.LinesChangeOnlyWhenDriven := by
  intro s t hstep hne
  cases step_cases hstep with
  | reset h => exact .inl h
  | pass => simp at hne
  | present => simp at hne
  | assertReset => simp at hne
  | idleStutter => simp at hne
  | accept _ _ _ hm hp hv hd => exact .inr ⟨hm, .inl ⟨hp, hv, by simp [isLegal, hd]⟩⟩
  | illegal => simp at hne
  | endPhase _ hm hp hdue => exact .inr ⟨hm, .inr ⟨hp, hdue⟩⟩
  | tooEarly => simp at hne

/-- Settles O13: the status outputs are read off the phase and the sticky error. -/
theorem statusOutputsFollowThePhase : Obligations.StatusOutputsFollowThePhase :=
  fun s => ⟨by simp [State.readyO], rfl, rfl⟩

/-- Settles O21: every instruction is an acceptance, and a busy NSER accepts nothing. -/
theorem busyHoldsEveryRequest : Obligations.BusyHoldsEveryRequest := by
  intro i s hbusy
  cases i <;>
    simp only [exec_sendByte, exec_sendNibble, exec_setCtrl, exec_wait, exec_clear, exec_home, exec_entry, exec_dispctl,
      exec_shift, exec_funcset, exec_setcgram, exec_setddram, exec_putc, exec_initReset8, exec_initSwitch4,
      accept_busy _ hbusy]

/-- Settles O27: the nibble is driven whole, by one drive. -/
theorem dataLinesChangeAtOnce : Obligations.DataLinesChangeAtOnce := by
  refine fun s n => ⟨fun i => rfl, ?_⟩
  rcases drive_trace_cases s { s.pin with d := n, e := false } with ⟨hpin, htrace⟩ | ⟨hpin, htrace⟩
  · exact .inl ⟨htrace, hpin⟩
  · exact .inr ⟨htrace, hpin⟩

/-- Settles O34: the scheduled move is NSER's own, which runs the decoded request. -/
theorem stepRunsTheDecodedRequest : Obligations.StepRunsTheDecodedRequest := by
  intro s ms i hr hs hp hv hd _
  rw [step_of_sched hr hs]
  exact act_request (s := { s with sched := ms }) hp hv hd

end Sys2Proof.Machine
end

section
/-! Lemmas about request words (30_encoding.md): the word of an instruction decodes to an instruction of the same meaning. -/

namespace Sys2Proof

/-- The word of an instruction is the word of the request that carries it (R80, R83). -/
theorem decodeCore_encode (i : Instr) : decodeCore (encode i) = .request i.core := by
  cases i with
  | sendByte rs v => revert rs v; decide +kernel
  | sendNibble n => revert n; decide +kernel
  | setCtrl rs => revert rs; decide +kernel
  | wait ms => exact decodeCore_encode_wait ms
  | entry id sh => revert id sh; decide +kernel
  | dispctl d c b => revert d c b; decide +kernel
  | shift sc rl => revert sc rl; decide +kernel
  | funcset dl n f => revert dl n f; decide +kernel
  | setcgram a => revert a; decide +kernel
  | setddram a => revert a; decide +kernel
  | putc v => revert v; decide +kernel
  | clear | home | initReset8 | initSwitch4 => decide

/-- Naming a request keeps the request that carries it (R82, R83). -/
theorem core_named (i : Instr) : i.named.core = i.core := by
  cases i with
  | sendByte rs v => revert rs v; decide +kernel
  | sendNibble n => revert n; decide +kernel
  | _ => rfl

namespace Machine

/-- An instruction does what the request that carries it does (R80, R83). -/
theorem exec_core (i : Instr) (s : State) : exec i.core s = exec i s := by
  cases i <;> rfl

/-- An instruction's word decodes to an instruction of the same meaning. -/
theorem exists_decode_encode (i : Instr) : ∃ j, decode (encode i) = .request j ∧ ∀ s, exec j s = exec i s := by
  refine ⟨i.core.named, decode_request (decodeCore_encode i), fun s => ?_⟩
  rw [← exec_core, core_named, exec_core, exec_core]

end Machine

end Sys2Proof
end

section
/-! Lemmas about the word lines (20_memory.md R63): every operation does the same whatever stands there unpresented. -/

namespace Sys2Proof.Machine

variable {s t : State}

theorem useMove_of_reqWord (s : State) (w : ReqWord) :
    ({ s with reqWord := w } : State).useMove = { s.useMove with reqWord := w } := by
  unfold State.useMove; cases s.sched <;> rfl

theorem takeReset_of_reqWord (s : State) (w : ReqWord) :
    ({ s with reqWord := w } : State).takeReset = { s.takeReset with reqWord := w } := by
  simp only [takeReset_eq]

theorem PhaseEnd.endPhase_eq (h : PhaseEnd s t) : s.endPhase = t := by
  cases h <;> simp only [State.endPhase, State.endSettle, *]

/-- A phase ends in the same way whatever the host does. -/
theorem PhaseEnd.of_host (h : PhaseEnd s t) (v : Bool) (w : ReqWord) (ws : List ReqWord) (ms : List Move) :
    PhaseEnd { s with reqValid := v, reqWord := w, stream := ws, sched := ms }
      { t with reqValid := v, reqWord := w, stream := ws, sched := ms } := by
  cases h with
  | setup hp => exact .setup hp
  | pulse hp => exact .pulse hp
  | settlePending lo hp hl => exact .settlePending lo hp hl
  | settleLast hp hl => exact .settleLast hp hl
  | wait hp => exact .wait hp

/-- The end of a phase leaves to the host what is the host's. -/
theorem PhaseEnd.host_eq (h : PhaseEnd s t) : t.reqValid = s.reqValid ∧ t.stream = s.stream ∧ t.sched = s.sched := by
  cases h <;> exact ⟨rfl, rfl, rfl⟩

theorem PhaseEnd.of_reqWord (h : PhaseEnd s t) (w : ReqWord) :
    PhaseEnd { s with reqWord := w } { t with reqWord := w } := by
  obtain ⟨hvalid, hstream, hsched⟩ := h.host_eq
  rw [hvalid, hstream, hsched]
  exact h.of_host s.reqValid w s.stream s.sched

theorem endPhase_of_reqWord (s : State) (w : ReqWord) :
    ({ s with reqWord := w } : State).endPhase = { s.endPhase with reqWord := w } := by
  by_cases hp : s.phase = .idle
  · simp [State.endPhase, hp]
  · exact ((phaseEnd_endPhase hp).of_reqWord w).endPhase_eq

/-- The end of a phase presents no word and takes none. -/
@[simp] theorem endPhase_reqValid (s : State) : s.endPhase.reqValid = s.reqValid := by
  by_cases hp : s.phase = .idle
  · simp [State.endPhase, hp]
  · exact (phaseEnd_endPhase hp).request_eq.1

/-- NSER's own move without a presented word: the end of a due phase, or nothing. -/
theorem act_unpresented (hv : s.reqValid = false) :
    s.act = .next (if s.phase ≠ .idle ∧ s.min ≤ s.elapsed then s.endPhase else s) := by
  by_cases hp : s.phase = .idle <;> by_cases hdue : s.min ≤ s.elapsed <;> simp [State.act, hv, hp, hdue]

/-- Presenting puts a word on the lines, whatever stood there, or the host has none and the lines stay. -/
theorem present_of_reqWord (hv : s.reqValid = false) (w : ReqWord) :
    ({ s with reqWord := w } : State).present =
      { s.present with reqWord := if s.present.reqValid then s.present.reqWord else w } := by
  cases hs : s.stream <;> simp [State.present, hv, hs]

/-- A move changes the same whatever word stands on the lines unpresented, and keeps that word unless it presents one. -/
theorem perform_of_reqWord {m : Move} (hv : s.reqValid = false) (w : ReqWord) (h : s.perform m = .next t) :
    ({ s with reqWord := w } : State).perform m = .next { t with reqWord := if t.reqValid then t.reqWord else w } := by
  cases m with
  | pass k => cases h; simp [State.perform, State.advance, hv]
  | act =>
    rw [State.perform, act_unpresented hv] at h
    rw [State.perform, act_unpresented (s := { s with reqWord := w }) hv, endPhase_of_reqWord]
    cases h
    split <;> simp [hv]
  | present => cases h; rw [State.perform, present_of_reqWord hv]
  | assertReset => cases h; simp [State.perform, State.assertReset, hv]

/-- The same of a step (R63): reset presents no word either. -/
theorem step_of_reqWord (hv : s.reqValid = false) (w : ReqWord) (hstep : step s = .next t) :
    step { s with reqWord := w } = .next { t with reqWord := if t.reqValid then t.reqWord else w } := by
  unfold step at hstep ⊢
  split at hstep
  case isTrue hr =>
    cases hstep
    rw [if_pos hr, takeReset_of_reqWord]
    simp [takeReset_eq, hv]
  case isFalse hr =>
    rw [if_neg hr, useMove_of_reqWord]
    exact perform_of_reqWord (by simpa using hv) w hstep

end Sys2Proof.Machine
end

section
/-! Runs of whole requests (40_transport.md R100 to R105, 41_control.md R130), from the moves of each phase to the request:
where SET_CTRL, SEND_NIBBLE and SEND_BYTE come from IDLE to IDLE. -/

namespace Sys2Proof.Machine

variable {s t : State} {w : ReqWord} {ws : List ReqWord} {ms : List Move}

/-- A run goes on where another ended. -/
theorem run_trans {j k : Nat} {u : State} (hj : run j s = .next t) (hk : run k t = .next u) : run (j + k) s = .next u := by
  induction j generalizing s with
  | zero => cases hj; rwa [Nat.zero_add]
  | succ j ih =>
    rw [Nat.succ_add]
    simp only [run] at hj ⊢
    split at hj
    · exact ih hj
    · cases hj
    · cases hj

/-- `s` with the host at rest: `w` is the word last taken, the words `ws` are still to be presented, and the moves `ms` come
next. -/
def State.hostAt (s : State) (w : ReqWord) (ws : List ReqWord) (ms : List Move) : State :=
  { s with reqValid := false, reqWord := w, stream := ws, sched := ms }

theorem hostAt_reqWord (hv : s.reqValid = false) (ws : List ReqWord) (ms : List Move) :
    s.hostAt s.reqWord ws ms = { s with stream := ws, sched := ms } := by
  rw [State.hostAt, ← hv]

/-- One strobe from SETUP until its SETTLE is due, its phases lasting `d₁ + 1`, `d₂ + 1` and `d₃ + 1` ns (R103, R105). -/
def State.strobe (s : State) (d₁ d₂ d₃ : Nat) : State :=
  (((s.advance (d₁ + 1)).endSetup.advance (d₂ + 1)).endPulse).advance (d₃ + 1)

/-- The whole of a SET_CTRL: one drive (R130). -/
def State.afterCtrl (s : State) (rs : Bool) : State := s.drive { s.pin with rs := rs, e := false, rw := false }

/-- The whole of a SEND_NIBBLE, from IDLE to IDLE (R100). -/
def State.afterNibble (s : State) (n : Nibble) (d₁ d₂ d₃ : Nat) : State :=
  ((s.startNibble n).strobe d₁ d₂ d₃).toIdle

theorem step_hostAt (hr : s.rst = false) (m : Move) :
    step (s.hostAt w ws (m :: ms)) = (s.hostAt w ws ms).perform m :=
  step_of_sched (s := s.hostAt w ws (m :: ms)) hr rfl

theorem PhaseEnd.phase_ne_idle (h : PhaseEnd s t) : s.phase ≠ .idle := by
  cases h <;> simp [*]

/-- A phase lasts `d + 1` ns, at least its minimum, and ends (R26, R106). -/
theorem run_phase {d : Nat} (hr : s.rst = false) (hd : s.min ≤ s.elapsed + (d + 1)) (h : PhaseEnd (s.advance (d + 1)) t) :
    run 2 (s.hostAt w ws (.pass d :: .act :: ms)) = .next (t.hostAt w ws ms) := by
  have hp : s.phase ≠ .idle := h.phase_ne_idle
  have hpass : step (s.hostAt w ws (.pass d :: .act :: ms)) = .next ((s.advance (d + 1)).hostAt w ws (.act :: ms)) :=
    step_hostAt hr _
  have hact : ((s.advance (d + 1)).hostAt w ws ms).act = .next (t.hostAt w ws ms) := by
    have hend : PhaseEnd ((s.advance (d + 1)).hostAt w ws ms) (t.hostAt w ws ms) := h.of_host false w ws ms
    rw [act_unpresented rfl, hend.endPhase_eq]
    exact congrArg _ (if_pos ⟨hp, by simpa [State.hostAt, hp] using hd⟩)
  exact (run_succ hpass).trans (run_succ ((step_hostAt (s := s.advance (d + 1)) hr .act).trans hact))

/-- In IDLE the word of an instruction is presented and taken, and the instruction is run (R31, R76). -/
theorem run_present_act {i : Instr} (hr : s.rst = false) (hp : s.phase = .idle)
    (he : exec i (s.hostAt (encode i) ws ms) = .next t) :
    run 2 (s.hostAt w (encode i :: ws) (.present :: .act :: ms)) = .next t := by
  obtain ⟨j, hdecode, hexec⟩ := exists_decode_encode i
  have hpresent : step (s.hostAt w (encode i :: ws) (.present :: .act :: ms)) =
      .next { s.hostAt (encode i) ws (.act :: ms) with reqValid := true } := step_hostAt hr _
  have hact : step { s.hostAt (encode i) ws (.act :: ms) with reqValid := true } = .next t :=
    (step_of_sched (s := { s.hostAt (encode i) ws (.act :: ms) with reqValid := true }) hr rfl).trans
      ((act_request (s := { s.hostAt (encode i) ws ms with reqValid := true }) hp rfl hdecode).trans ((hexec _).trans he))
  exact (run_succ hpresent).trans (run_succ hact)

/-- One strobe from SETUP, up to and with the end of its SETTLE. -/
theorem run_strobe (hr : s.rst = false) (hp : s.phase = .setup) (hmin : s.min = s.cfg.tSuMin) {d₁ d₂ d₃ : Nat}
    (h₁ : s.cfg.tSuMin ≤ d₁ + 1) (h₂ : s.cfg.tPwMin ≤ d₂ + 1) (h₃ : s.cfg.tSettleMin ≤ d₃ + 1)
    (hend : PhaseEnd (s.strobe d₁ d₂ d₃) t) :
    run 6 (s.hostAt w ws (.pass d₁ :: .act :: .pass d₂ :: .act :: .pass d₃ :: .act :: ms)) = .next (t.hostAt w ws ms) := by
  have hsetup : run 2 (s.hostAt w ws (.pass d₁ :: .act :: .pass d₂ :: .act :: .pass d₃ :: .act :: ms)) = _ :=
    run_phase hr (by omega) (.setup hp)
  have hpulse : run 2 ((s.advance (d₁ + 1)).endSetup.hostAt w ws (.pass d₂ :: .act :: .pass d₃ :: .act :: ms)) = _ :=
    run_phase hr (by simpa using h₂) (.pulse rfl)
  have hsettle : run 2 (((s.advance (d₁ + 1)).endSetup.advance (d₂ + 1)).endPulse.hostAt w ws (.pass d₃ :: .act :: ms)) =
      .next (t.hostAt w ws ms) := run_phase hr (by simpa using h₃) hend
  exact run_trans hsetup (run_trans hpulse hsettle)

theorem run_setCtrl (hr : s.rst = false) (hp : s.phase = .idle) (rs : Bool) :
    run 2 (s.hostAt w (encode (.setCtrl rs) :: ws) (.present :: .act :: ms)) =
      .next ((s.afterCtrl rs).hostAt (encode (.setCtrl rs)) ws ms) :=
  run_present_act hr hp ((exec_setCtrl rs _).trans (accept_idle _ hp))

/-- The strobe of a SEND_NIBBLE that has been accepted. -/
theorem run_startNibble (hr : s.rst = false) (n : Nibble) {d₁ d₂ d₃ : Nat}
    (h₁ : s.cfg.tSuMin ≤ d₁ + 1) (h₂ : s.cfg.tPwMin ≤ d₂ + 1) (h₃ : s.cfg.tSettleMin ≤ d₃ + 1) :
    run 6 ((s.startNibble n).hostAt w ws (.pass d₁ :: .act :: .pass d₂ :: .act :: .pass d₃ :: .act :: ms)) =
      .next ((s.afterNibble n d₁ d₂ d₃).hostAt w ws ms) :=
  run_strobe (s := s.startNibble n) hr rfl rfl h₁ h₂ h₃ (.settleLast rfl rfl)

theorem run_sendNibble (hr : s.rst = false) (hp : s.phase = .idle) (n : Nibble) {d₁ d₂ d₃ : Nat}
    (h₁ : s.cfg.tSuMin ≤ d₁ + 1) (h₂ : s.cfg.tPwMin ≤ d₂ + 1) (h₃ : s.cfg.tSettleMin ≤ d₃ + 1) :
    run 8 (s.hostAt w (encode (.sendNibble n) :: ws)
        (.present :: .act :: .pass d₁ :: .act :: .pass d₂ :: .act :: .pass d₃ :: .act :: ms)) =
      .next ((s.afterNibble n d₁ d₂ d₃).hostAt (encode (.sendNibble n)) ws ms) :=
  run_trans (run_present_act hr hp ((exec_sendNibble n _).trans (accept_idle _ hp))) (run_startNibble hr n h₁ h₂ h₃)

/-- With E low the drive of SEND_BYTE is that of SET_CTRL, and its first strobe that of the high nibble with the low one
pending (R101, R130). -/
theorem startByte_eq_startNibble (he : s.pin.e = false) (rs : Bool) (v : Byte) :
    s.startByte rs v = ((s.afterCtrl rs).startNibble (hiNibble v)).setPend (some (loNibble v)) := by
  have hpins : ({ s.pin with rs := rs, rw := false } : Pins) = { s.pin with rs := rs, e := false, rw := false } := by
    rw [← he]
  rw [State.startByte, hpins]
  rfl

/-- The low nibble that is pending at the end of the first SETTLE starts as a SEND_NIBBLE accepted in IDLE then would (R54,
R104). -/
theorem startByte_strobe_phaseEnd (he : s.pin.e = false) (rs : Bool) (v : Byte) (d₁ d₂ d₃ : Nat) :
    PhaseEnd ((s.startByte rs v).strobe d₁ d₂ d₃)
      (((s.afterCtrl rs).afterNibble (hiNibble v) d₁ d₂ d₃).startNibble (loNibble v)) := by
  rw [startByte_eq_startNibble he]
  exact .settlePending (loNibble v) rfl rfl

/-- A SEND_BYTE goes through the states of its two nibbles under its RS (R54). -/
theorem run_sendByte (hr : s.rst = false) (hp : s.phase = .idle) (he : s.pin.e = false) (rs : Bool) (v : Byte)
    {d₁ d₂ d₃ d₄ d₅ d₆ : Nat}
    (h₁ : s.cfg.tSuMin ≤ d₁ + 1) (h₂ : s.cfg.tPwMin ≤ d₂ + 1) (h₃ : s.cfg.tSettleMin ≤ d₃ + 1)
    (h₄ : s.cfg.tSuMin ≤ d₄ + 1) (h₅ : s.cfg.tPwMin ≤ d₅ + 1) (h₆ : s.cfg.tSettleMin ≤ d₆ + 1) :
    run 14 (s.hostAt w (encode (.sendByte rs v) :: ws)
        (.present :: .act :: .pass d₁ :: .act :: .pass d₂ :: .act :: .pass d₃ :: .act ::
          .pass d₄ :: .act :: .pass d₅ :: .act :: .pass d₆ :: .act :: ms)) =
      .next ((((s.afterCtrl rs).afterNibble (hiNibble v) d₁ d₂ d₃).afterNibble (loNibble v) d₄ d₅ d₆).hostAt
        (encode (.sendByte rs v)) ws ms) := by
  have haccept := run_present_act (w := w) (ws := ws) (ms := .pass d₁ :: .act :: .pass d₂ :: .act :: .pass d₃ :: .act ::
    .pass d₄ :: .act :: .pass d₅ :: .act :: .pass d₆ :: .act :: ms) hr hp ((exec_sendByte rs v _).trans (accept_idle _ hp))
  have hhigh := run_strobe (s := s.startByte rs v) (w := encode (.sendByte rs v)) (ws := ws)
    (ms := .pass d₄ :: .act :: .pass d₅ :: .act :: .pass d₆ :: .act :: ms) hr rfl rfl h₁ h₂ h₃
    (startByte_strobe_phaseEnd he rs v d₁ d₂ d₃)
  have hlow := run_startNibble (s := (s.afterCtrl rs).afterNibble (hiNibble v) d₁ d₂ d₃)
    (w := encode (.sendByte rs v)) (ws := ws) (ms := ms) hr (loNibble v) h₄ h₅ h₆
  exact run_trans haccept (run_trans hhigh hlow)

end Sys2Proof.Machine
end

section
/-! The statements about the word lines and the lack of a byte register (20_memory.md), settled from the lemmas above. -/

namespace Sys2Proof.Machine

/-- Settles O39: a step changes the same whatever word stands on the lines unpresented. -/
theorem wordIsReadOnlyWhenPresented : Obligations.WordIsReadOnlyWhenPresented :=
  fun _ _ w hv hstep => ⟨_, step_of_reqWord hv w hstep, rfl, fun hpresented => by simp [hpresented]⟩

/-- Settles O57: both runs come to the state after the drive of the RS and the two nibbles, whatever the error. -/
theorem byteIsTwoNibblesUnderItsRs : Obligations.ByteIsTwoNibblesUnderItsRs := by
  intro s rs v d₁ d₂ d₃ d₄ d₅ d₆ hs hr hp hv h₁ h₂ h₃ h₄ h₅ h₆
  simp only [← hostAt_reqWord hv]
  have hbyte := run_sendByte (w := s.reqWord) (ws := []) (ms := []) hr hp (hs.e_low (by simp [hp])) rs v h₁ h₂ h₃ h₄ h₅ h₆
  have hhigh := run_sendNibble (s := s.afterCtrl rs) (w := encode (.setCtrl rs)) (ws := words [.sendNibble (loNibble v)])
    (ms := [.present, .act, .pass d₄, .act, .pass d₅, .act, .pass d₆, .act]) hr hp (hiNibble v) h₁ h₂ h₃
  have hlow := run_sendNibble (s := (s.afterCtrl rs).afterNibble (hiNibble v) d₁ d₂ d₃)
    (w := encode (.sendNibble (hiNibble v))) (ws := []) (ms := []) hr rfl (loNibble v) h₄ h₅ h₆
  exact ⟨_, _, hbyte, run_trans (run_setCtrl hr hp rs) (run_trans hhigh hlow), rfl, fun _ => rfl⟩

end Sys2Proof.Machine
end

section
/-! Lemmas about names and requests (30_encoding.md R76, R80, R82, R83): what the decoder answers is a word's one request under
its most specific name, and naming keeps the word. -/

namespace Sys2Proof

/-! ### The decoder's answers -/

/-- A word that decodes to one of the four requests is the word of that request. -/
theorem encode_of_decodeCore {w : ReqWord} {i : Instr} (h : decodeCore w = .request i) : encode i = w := by
  rcases decodeCore_cases w with ⟨_, _, hw, hd⟩ | ⟨_, hw, hd⟩ | ⟨_, hw, hd⟩ | ⟨_, hw, hd⟩ | hd <;>
    cases hd.symm.trans h
  all_goals exact hw.symm

/-- The word reported illegal is the word itself. -/
theorem eq_of_decodeCore_illegal {w v : ReqWord} (h : decodeCore w = .illegal v) : v = w := by
  rcases decodeCore_cases w with ⟨_, _, _, hd⟩ | ⟨_, _, hd⟩ | ⟨_, _, hd⟩ | ⟨_, _, hd⟩ | hd <;>
    cases hd.symm.trans h
  rfl

theorem decode_eq_request_iff {w : ReqWord} {i : Instr} :
    decode w = .request i ↔ ∃ j, decodeCore w = .request j ∧ j.named = i := by
  cases h : decodeCore w with
  | request j => simp [decode_request h]
  | illegal v => simp [decode_illegal h]

theorem decode_eq_illegal_iff {w v : ReqWord} : decode w = .illegal v ↔ decodeCore w = .illegal v := by
  cases h : decodeCore w with
  | request j => simp [decode_request h]
  | illegal v => simp [decode_illegal h]

/-! ### Names -/

/-- The word of an instruction is its request's word. -/
theorem encode_core (i : Instr) : encode i.core = encode i := encode_of_decodeCore (decodeCore_encode i)

/-- The name of a word is a name of the same word. -/
theorem encode_named (i : Instr) : encode i.named = encode i := by
  rw [← encode_core, core_named, encode_core]

/-- A command byte that no payload row takes keeps the name SEND_BYTE. -/
theorem namedCommand_of_no_row : ∀ v : Byte, isPayloadRow (BitVec.ofBool false ++ v) = false →
    namedCommand v = .sendByte false v := by
  decide +kernel

/-- A name given to a command byte is well formed: SEND_BYTE is kept only where no payload row takes the byte. -/
theorem namedCommand_wellFormed : ∀ v : Byte, (namedCommand v).wellFormed = true := by decide +kernel

/-- The payload row of PUTC takes every data byte (R158). -/
theorem isPayloadRow_data : ∀ v : Byte, isPayloadRow (BitVec.ofBool true ++ v) = true := by decide +kernel

/-- The most specific name is well formed. -/
theorem named_wellFormed (i : Instr) : i.named.wellFormed = true := by
  cases i with
  | sendByte rs v =>
    cases rs with
    | false => exact namedCommand_wellFormed v
    | true => rfl
  | sendNibble n => revert n; decide
  | _ => rfl

/-- A well-formed instruction is the most specific name of its request. -/
theorem named_core_of_wellFormed {i : Instr} (h : i.wellFormed = true) : i.core.named = i := by
  cases i with
  | sendByte rs v =>
    cases rs with
    | false => exact namedCommand_of_no_row v (by simpa [Instr.wellFormed] using h)
    | true => rw [Instr.wellFormed, isPayloadRow_data] at h; cases h
  | sendNibble n => revert n; decide
  | entry id sh => revert id sh; decide
  | dispctl d c b => revert d c b; decide
  | shift sc rl => revert sc rl; decide
  | funcset dl n f => revert dl n f; decide
  | setcgram a => revert a; decide +kernel
  | setddram a => revert a; decide +kernel
  | setCtrl | wait | clear | home | putc | initReset8 | initSwitch4 => rfl

end Sys2Proof
end

section
/-! The statements about decoding and encoding, settled from the lemmas above. -/

namespace Sys2Proof

/-- Settles O4: the word of an instruction decodes to its request, whose most specific name it is when it is well formed. -/
theorem decodeOfEncode : Obligations.DecodeOfEncode := by
  intro i hi
  rw [decode_request (decodeCore_encode i), named_core_of_wellFormed hi]

/-- Settles O5: the word is its request's word, and naming the request keeps the word and answers a well-formed name. -/
theorem encodeOfDecode : Obligations.EncodeOfDecode := by
  intro w i h
  obtain ⟨j, hj, rfl⟩ := decode_eq_request_iff.mp h
  exact ⟨(encode_named j).trans (encode_of_decodeCore hj), named_wellFormed j⟩

/-- Settles O6: the word is the word of its name (O5), which the four-request decoder reads as the carrier. -/
theorem namingKeepsTheRequest : Obligations.NamingKeepsTheRequest := by
  refine ⟨fun w i h => ?_, fun w v => decode_eq_illegal_iff, fun w v h => eq_of_decodeCore_illegal (decode_eq_illegal_iff.mp h)⟩
  obtain ⟨rfl, -⟩ := encodeOfDecode w i h
  exact decodeCore_encode i

end Sys2Proof
end

section
/-! Lemmas about the illegal words (30_encoding.md R77): by their fields, by number, and by the masks of the opcode table. -/

namespace Sys2Proof

/-! ### The fields of an illegal word and how many illegal words there are -/

theorem isLegal_eq_false_iff {w : ReqWord} : isLegal w = false ↔ decodeCore w = .illegal w := by
  unfold isLegal
  cases h : decodeCore w with
  | request i => simp [decode_request h]
  | illegal v => simp [decode_illegal h, eq_of_decodeCore_illegal h]

/-- The zero tests of R76 that an illegal word fails. -/
theorem isLegal_eq_false_iff_fields (w : ReqWord) : isLegal w = false ↔
    (w.extractLsb' 14 2 = 0b00 ∧ w.extractLsb' 9 5 ≠ 0) ∨
    (w.extractLsb' 14 2 = 0b01 ∧ w.extractLsb' 4 10 ≠ 0) ∨
    (w.extractLsb' 14 2 = 0b10 ∧ (w.extractLsb' 9 5 ≠ 0 ∨ w.extractLsb' 0 8 ≠ 0)) := by
  rw [isLegal_eq_false_iff, decodeCore, ← not_and_or]
  split_ifs <;> simp_all

theorem isLegal_ofNat_iff {n : Nat} (hn : n < 65536) : isLegal (BitVec.ofNat 16 n) = true ↔
    n < 512 ∨ (16384 ≤ n ∧ n < 16400) ∨ n = 32768 ∨ n = 33024 ∨ 49152 ≤ n := by
  rw [isLegal_iff_toNat, BitVec.toNat_ofNat, Nat.mod_eq_of_lt hn]

/-- The illegal words of one operation field, which begins at `base`, are those that are left without its legal ones. -/
theorem countP_illegal_block (base : Nat) (legal : Finset Nat) (hsub : legal ⊆ Finset.range 16384)
    (h : ∀ n < 16384, isLegal (BitVec.ofNat 16 (base + n)) = true ↔ n ∈ legal) :
    (List.range 16384).countP (fun n => !isLegal (BitVec.ofNat 16 (base + n))) = 16384 - legal.card := by
  have hcount : (List.range 16384).countP (fun n => !isLegal (BitVec.ofNat 16 (base + n))) =
      (Finset.range 16384 \ legal).card := by
    rw [List.countP_eq_length_filter, ← List.toFinset_card_of_nodup (List.nodup_range.filter _)]
    congr 1
    ext n
    simp only [List.mem_toFinset, List.mem_filter, List.mem_range, Finset.mem_sdiff, Finset.mem_range]
    exact and_congr_right fun hn => by simp [← h n hn]
  rw [hcount, Finset.card_sdiff_of_subset hsub, Finset.card_range]

/-! ### The masks of the request rows -/

/-- A mask of the bits from `k` on clears the number below `2 ^ k`. -/
theorem and_highMask_eq_iff (w v : ReqWord) (k : Nat) :
    w &&& BitVec.allOnes 16 <<< k = v ↔ w.toNat / 2 ^ k * 2 ^ k = v.toNat := by
  have hlt : w.toNat / 2 ^ k * 2 ^ k < 2 ^ 16 := (Nat.div_mul_le_self _ _).trans_lt w.isLt
  rw [← BitVec.toNat_inj, ← BitVec.shiftLeft_ushiftRight, BitVec.toNat_shiftLeft, BitVec.toNat_ushiftRight,
    Nat.shiftRight_eq_div_pow, Nat.shiftLeft_eq, Nat.mod_eq_of_lt hlt]

/-- The SET_CTRL row leaves bit 8 free and no other. -/
theorem and_setCtrlMask_eq_iff (w : ReqWord) : w &&& 0xFEFF = 0x8000 ↔ w = 0x8000 ∨ w = 0x8100 := by
  constructor
  · intro h
    have hsplit : w = w &&& 0xFEFF ||| w &&& BitVec.twoPow 16 8 := by
      rw [← BitVec.and_or_distrib_left]; exact BitVec.and_allOnes.symm
    rw [h, BitVec.and_twoPow] at hsplit
    cases hb : w.getLsbD 8 with
    | false => rw [hb] at hsplit; exact .inl hsplit
    | true => rw [hb] at hsplit; exact .inr hsplit
  · rintro (rfl | rfl) <;> rfl

/-- The words that a request row takes, by number, row by row. -/
theorem isRequestRow_iff_toNat (w : ReqWord) : isRequestRow w = true ↔
    w.toNat < 512 ∨ (16384 ≤ w.toNat ∧ w.toNat < 16400) ∨ w.toNat = 32768 ∨ w.toNat = 33024 ∨ 49152 ≤ w.toNat := by
  have hw := w.isLt
  have hbyte : w &&& 0xFE00#16 = 0x0000#16 ↔ w.toNat < 512 :=
    (and_highMask_eq_iff w 0x0000 9).trans (by simp)
  have hnibble : w &&& 0xFFF0#16 = 0x4000#16 ↔ 16384 ≤ w.toNat ∧ w.toNat < 16400 :=
    (and_highMask_eq_iff w 0x4000 4).trans (by simp; omega)
  have hctrl : w &&& 0xFEFF#16 = 0x8000#16 ↔ w.toNat = 32768 ∨ w.toNat = 33024 :=
    (and_setCtrlMask_eq_iff w).trans (or_congr BitVec.toNat_inj.symm BitVec.toNat_inj.symm)
  have hwait : w &&& 0xC000#16 = 0xC000#16 ↔ 49152 ≤ w.toNat :=
    (and_highMask_eq_iff w 0xC000 14).trans (by simp; omega)
  simp [isRequestRow, requestRows, hbyte, hnibble, hctrl, hwait, or_assoc]

end Sys2Proof
end

section
/-! The statements about legal and illegal words, settled from the lemmas above. -/

namespace Sys2Proof

/-- Settles O1: the decoder's answer to each word. -/
theorem writtenWordsDecode : Obligations.WrittenWordsDecode := by
  unfold Obligations.WrittenWordsDecode
  decide

/-- Settles O2: the zero tests of R76, and in each operation field the count of its legal words. -/
theorem illegalWordsAreExactly : Obligations.IllegalWordsAreExactly := by
  refine ⟨isLegal_eq_false_iff_fields, ?_, ?_, ?_, ?_, rfl, rfl, rfl⟩
  · have h := countP_illegal_block 0 (Finset.range 512) (by simp) fun n hn => by
      rw [isLegal_ofNat_iff (by omega), Finset.mem_range]; omega
    simpa using h
  · have h := countP_illegal_block 16384 (Finset.range 16) (by simp) fun n hn => by
      rw [isLegal_ofNat_iff (by omega), Finset.mem_range]; omega
    simpa using h
  · have h := countP_illegal_block 32768 {0, 256} (by simp [Finset.insert_subset_iff]) fun n hn => by
      rw [isLegal_ofNat_iff (by omega), Finset.mem_insert, Finset.mem_singleton]; omega
    simpa using h
  · have h := countP_illegal_block 49152 (Finset.range 16384) subset_rfl fun n hn => by
      rw [isLegal_ofNat_iff (by omega), Finset.mem_range]; omega
    simpa using h

/-- Settles O3: the decoder and the rows take the same words by number. -/
theorem legalWordsAreTheRequestRows : Obligations.LegalWordsAreTheRequestRows :=
  fun w => Bool.eq_iff_iff.mpr ((isLegal_iff_toNat w).trans (isRequestRow_iff_toNat w).symm)

end Sys2Proof
end

section
/-! Lemmas about the assembler (30_encoding.md R79, R80): the word of a line with one operand, and the pseudo-instructions as the
line of the request that carries them. -/

namespace Sys2Proof.Machine

/-! ### One line, one word -/

/-- A field above the operand's `k` bits and the operand stand side by side in the word. -/
theorem toNat_or_operand {k a n : Nat} (ha : 2 ^ k * a < 2 ^ 16) (hn : n < 2 ^ k) (hsum : 2 ^ k * a + n < 2 ^ 16) :
    (BitVec.ofNat 16 (2 ^ k * a) ||| BitVec.ofNat 16 n).toNat = 2 ^ k * a + n := by
  rw [BitVec.toNat_or, BitVec.toNat_ofNat, BitVec.toNat_ofNat, Nat.mod_eq_of_lt ha, Nat.mod_eq_of_lt (by omega),
    Nat.two_pow_add_eq_or_of_lt hn]

/-- A line whose one operand is a number of `k` bits: its word, or an error where the number is out of range. -/
theorem assemble_of_asmField {k n : Nat} {f : BitVec k → Instr} {l : AsmLine} {w : ReqWord}
    (hl : assembleLine l = (asmField k n).map fun v => [f v]) (hw : n < 2 ^ k → encode (f (BitVec.ofNat k n)) = w) :
    assemble l = if n < 2 ^ k then some [w] else none := by
  rw [assemble, hl, asmField]
  split
  · rename_i hn; simp [words, hw hn]
  · rfl

theorem encode_sendByte_ofNat {n : Nat} (rs : Bool) (hn : n < 256) :
    encode (.sendByte rs (BitVec.ofNat 8 n)) = BitVec.ofNat 16 (2 ^ 8 * rs.toNat) ||| BitVec.ofNat 16 n := by
  apply BitVec.eq_of_toNat_eq
  rw [encode_sendByte_toNat, BitVec.toNat_ofNat, toNat_or_operand] <;> cases rs <;> simp <;> omega

theorem encode_sendNibble_ofNat {n : Nat} (hn : n < 16) :
    encode (.sendNibble (BitVec.ofNat 4 n)) = 0x4000 ||| BitVec.ofNat 16 n := by
  apply BitVec.eq_of_toNat_eq
  have hor := toNat_or_operand (k := 4) (a := 1024) (n := n) (by decide) hn (by omega)
  rw [encode_sendNibble_toNat, BitVec.toNat_ofNat, Nat.mod_eq_of_lt hn]
  exact hor.symm

theorem encode_wait_ofNat {n : Nat} (hn : n < 16384) :
    encode (.wait (BitVec.ofNat 14 n)) = 0xC000 ||| BitVec.ofNat 16 n := by
  apply BitVec.eq_of_toNat_eq
  have hor := toNat_or_operand (k := 14) (a := 3) (n := n) (by decide) hn (by omega)
  rw [encode_wait_toNat, BitVec.toNat_ofNat, Nat.mod_eq_of_lt hn]
  exact hor.symm

/-! ### Pseudo-instructions -/

/-- A line of an instruction that a SEND_BYTE with RS = 0 carries has the word of `SEND.CMD` with its byte. -/
theorem assemble_eq_sendCmd {l : AsmLine} {i : Instr} {v : Byte} {n : Nat} (hl : assembleLine l = some [i])
    (hi : i.core = .sendByte false v) (hn : n = v.toNat) : assemble l = assemble (.sendCmd n) := by
  have hbyte : asmField 8 n = some v := by simp [asmField, hn, v.isLt]
  have hcmd : assembleLine (.sendCmd n) = some [i.core] := by simp [assembleLine, hbyte, hi]
  simp [assemble, hl, hcmd, words, encode_core]

/-- A one-bit operand in range is an option. -/
theorem exists_option_of_lt_two {n : Nat} (h : n < 2) : ∃ b : Bool, n = b.toNat ∧ asmBit n = some b := by
  obtain rfl | rfl : n = 0 ∨ n = 1 := by omega
  · exact ⟨false, rfl, rfl⟩
  · exact ⟨true, rfl, rfl⟩

theorem setcgramByte_toNat {a : Nat} (h : a < 64) : 0x40 ||| a = (setcgramByte (BitVec.ofNat 6 a)).toNat := by
  simp [setcgramByte, Nat.mod_eq_of_lt h, Nat.mod_eq_of_lt (h.trans (by decide : 64 < 256))]

theorem setddramByte_toNat {a : Nat} (h : a < 128) : 0x80 ||| a = (setddramByte (BitVec.ofNat 7 a)).toNat := by
  simp [setddramByte, Nat.mod_eq_of_lt h, Nat.mod_eq_of_lt (h.trans (by decide : 128 < 256))]

end Sys2Proof.Machine
end

section
/-! The statements about the assembler and about names at acceptance, settled from the lemmas above. -/

namespace Sys2Proof.Machine

/-- Settles O7: each line's instruction is carried by the SEND_BYTE of its rule's byte, and has that request's word. -/
theorem pseudoInstructionsExpand : Obligations.PseudoInstructionsExpand := by
  refine ⟨assemble_eq_sendCmd rfl rfl rfl, assemble_eq_sendCmd rfl rfl rfl, fun id sh hid hsh => ?_,
    fun d c b hd hc hb => ?_, fun sc rl hsc hrl => ?_, fun dl n f hdl hn hf => ?_, fun a ha => ?_, fun a ha => ?_,
    fun v => ?_, by decide⟩
  · obtain ⟨id, rfl, hid⟩ := exists_option_of_lt_two hid
    obtain ⟨sh, rfl, hsh⟩ := exists_option_of_lt_two hsh
    exact assemble_eq_sendCmd (i := .entry id sh) (by simp [assembleLine, hid, hsh]) rfl (by revert id sh; decide)
  · obtain ⟨d, rfl, hd⟩ := exists_option_of_lt_two hd
    obtain ⟨c, rfl, hc⟩ := exists_option_of_lt_two hc
    obtain ⟨b, rfl, hb⟩ := exists_option_of_lt_two hb
    exact assemble_eq_sendCmd (i := .dispctl d c b) (by simp [assembleLine, hd, hc, hb]) rfl (by revert d c b; decide)
  · obtain ⟨sc, rfl, hsc⟩ := exists_option_of_lt_two hsc
    obtain ⟨rl, rfl, hrl⟩ := exists_option_of_lt_two hrl
    exact assemble_eq_sendCmd (i := .shift sc rl) (by simp [assembleLine, hsc, hrl]) rfl (by revert sc rl; decide)
  · obtain ⟨dl, rfl, hdl⟩ := exists_option_of_lt_two hdl
    obtain ⟨n, rfl, hn⟩ := exists_option_of_lt_two hn
    obtain ⟨f, rfl, hf⟩ := exists_option_of_lt_two hf
    exact assemble_eq_sendCmd (i := .funcset dl n f) (by simp [assembleLine, hdl, hn, hf]) rfl (by revert dl n f; decide)
  · exact assemble_eq_sendCmd (i := .setcgram (.ofNat 6 a)) (by simp [assembleLine, asmField, ha]) rfl (setcgramByte_toNat ha)
  · exact assemble_eq_sendCmd (i := .setddram (.ofNat 7 a)) (by simp [assembleLine, asmField, ha]) rfl (setddramByte_toNat ha)
  · have hword (b : Byte) : encode (.putc b) = encode (.sendByte true b) := (encode_core (.putc b)).symm
    simp only [assemble, assembleLine]
    cases asmValue v <;> simp [words, hword]

/-- Settles O8: each operand in range has the word of its request, and every other is an error. -/
theorem assemblerWords : Obligations.AssemblerWords := by
  refine ⟨fun v => assemble_of_asmField (f := .sendByte false) rfl (encode_sendByte_ofNat false),
    fun v => assemble_of_asmField (f := .sendByte true) rfl (encode_sendByte_ofNat true), fun c => ?_,
    fun n => assemble_of_asmField (f := .sendNibble) rfl encode_sendNibble_ofNat, fun r => ?_,
    fun m => assemble_of_asmField (f := .wait) rfl encode_wait_ofNat⟩
  · by_cases hc : c.toNat < 128
    · simp [assemble, assembleLine, asmValue, hc, words, encode_sendByte_ofNat true (by omega : c.toNat < 256)]
    · simp [assemble, assembleLine, asmValue, hc]
  · by_cases hr : r < 2
    · obtain ⟨rs, rfl, hrs⟩ := exists_option_of_lt_two hr
      revert rs; decide
    · simp [assemble, assembleLine, asmBit, hr, show r ≠ 0 by omega, show r ≠ 1 by omega]

/-- Settles O20: in IDLE the nibble's request is accepted. -/
theorem initNibblesStartTheirStrobe : Obligations.InitNibblesStartTheirStrobe := by
  intro s hp
  rw [exec_initReset8, exec_initSwitch4]
  exact ⟨accept_idle _ hp, accept_idle _ hp⟩

/-- Settles O22: the effect of an instruction is its carrier's, at acceptance and while busy. -/
theorem namedRequestsActAsTheirCarrier : Obligations.NamedRequestsActAsTheirCarrier :=
  fun i s => (exec_core i s).symm

end Sys2Proof.Machine
end

section
/-! Lemmas about the timing invariant (40_transport.md R107, R109): what a longer trace says of the spacing of its transfers, and
which operations keep the invariant. -/

namespace Sys2Proof.Machine

variable {s t : State}

/-! ### Traces that grow -/

/-- No transfer is recorded in `evs`. -/
def NoXfer (evs : List Event) : Prop := ∀ rs rw n a b, Event.xfer rs rw n a b ∉ evs

theorem noXfer_nil : NoXfer [] := by simp [NoXfer]

theorem noXfer_changeTo (old new : Pins) (time : Nat) : NoXfer (old.changeTo new time) := by simp [NoXfer]

/-- An entry at which a longer trace is cut, if it is not among the new entries, cuts the old trace at the same place. -/
theorem cut_of_append {tr ext l r : List Event} {x : Event} (hx : x ∉ ext) (h : tr ++ ext = l ++ x :: r) :
    ∃ r', tr = l ++ x :: r' ∧ r = r' ++ ext := by
  rcases List.append_eq_append_iff.1 h with ⟨a, -, hext⟩ | ⟨c, htr, hr⟩
  · exact absurd (by simp [hext]) hx
  · cases c with
    | nil => exact absurd (by simp [← show x :: r = ext from hr]) hx
    | cons y c =>
      obtain ⟨rfl, rfl⟩ := List.cons.inj hr
      exact ⟨c, htr, rfl⟩

/-- An entry at which a trace with one entry more is cut is that entry, or it cuts the old trace at the same place. -/
theorem cut_of_concat {tr l r : List Event} {x y : Event} (h : tr ++ [y] = l ++ x :: r) :
    (l = tr ∧ x = y ∧ r = []) ∨ ∃ r', tr = l ++ x :: r' ∧ r = r' ++ [y] := by
  rcases r.eq_nil_or_concat with rfl | ⟨r', z, rfl⟩
  · obtain ⟨hl, hx⟩ := List.append_inj' h rfl
    exact .inl ⟨hl.symm, (List.cons.inj hx).1.symm, rfl⟩
  · rw [List.concat_eq_append, ← List.cons_append, ← List.append_assoc] at h
    obtain ⟨hl, hy⟩ := List.append_inj' h rfl
    exact .inr ⟨r', hl, by rw [hy, List.concat_eq_append]⟩

theorem PulsesLongEnough.append {c : Config} {tr ext : List Event} (h : PulsesLongEnough c tr) (hext : NoXfer ext) :
    PulsesLongEnough c (tr ++ ext) := by
  intro rs rw n a b hmem
  rcases List.mem_append.1 hmem with hmem | hmem
  · exact h rs rw n a b hmem
  · exact absurd hmem (hext rs rw n a b)

theorem TransfersSpaced.append {c : Config} {tr ext : List Event} (h : TransfersSpaced c tr) (hext : NoXfer ext) :
    TransfersSpaced c (tr ++ ext) := by
  intro l m r rs rw n a b rs' rw' n' a' b' htr hm
  rw [← List.cons_append, ← List.append_assoc] at htr
  obtain ⟨r', hcut, -⟩ := cut_of_append (hext rs' rw' n' a' b') htr
  exact h l m r' rs rw n a b rs' rw' n' a' b' (by simpa using hcut) hm

theorem PulsesLongEnough.concat {c : Config} {tr : List Event} (h : PulsesLongEnough c tr) {rs rw : Bool} {n : Nibble}
    {a b : Nat} (hab : a + c.tPwMin ≤ b) : PulsesLongEnough c (tr ++ [.xfer rs rw n a b]) := by
  intro rs' rw' n' a' b' hmem
  rcases List.mem_append.1 hmem with hmem | hmem
  · exact h rs' rw' n' a' b' hmem
  · cases List.mem_singleton.1 hmem
    exact hab

theorem TransfersSpaced.concat {c : Config} {tr : List Event} (h : TransfersSpaced c tr) {rs rw : Bool} {n : Nibble}
    {a b : Nat} (hlast : ∀ l m rs' rw' n' a' b', tr = l ++ Event.xfer rs' rw' n' a' b' :: m → NoReset m →
      b' + c.tSettleMin + c.tSuMin ≤ a) : TransfersSpaced c (tr ++ [.xfer rs rw n a b]) := by
  intro l m r rs₁ rw₁ n₁ a₁ b₁ rs₂ rw₂ n₂ a₂ b₂ htr hm
  rw [← List.cons_append, ← List.append_assoc] at htr
  rcases cut_of_concat htr with ⟨hcut, hxfer, -⟩ | ⟨r', hcut, -⟩
  · cases hxfer
    exact hlast l m rs₁ rw₁ n₁ a₁ b₁ hcut.symm hm
  · exact h l m r' rs₁ rw₁ n₁ a₁ b₁ rs₂ rw₂ n₂ a₂ b₂ (by simpa using hcut) hm

/-! ### The spacing that a phase keeps -/

theorem spacedFrom_idle {b : Nat} (hp : s.phase = .idle) : s.spacedFrom b ↔ b + s.cfg.tSettleMin ≤ s.now := by
  simp [State.spacedFrom, hp]

theorem spacedFrom_setup {b : Nat} (hp : s.phase = .setup) :
    s.spacedFrom b ↔ b + s.cfg.tSettleMin + s.elapsed ≤ s.now := by
  simp [State.spacedFrom, hp]

theorem spacedFrom_pulse {b : Nat} (hp : s.phase = .pulse) :
    s.spacedFrom b ↔ b + s.cfg.tSettleMin + s.cfg.tSuMin ≤ s.tRise := by
  simp [State.spacedFrom, hp]

theorem spacedFrom_settle {b : Nat} (hp : s.phase = .settle) : s.spacedFrom b ↔ b + s.elapsed ≤ s.now := by
  simp [State.spacedFrom, hp]

theorem spacedFrom_wait {b : Nat} (hp : s.phase = .wait) : s.spacedFrom b ↔ b + s.cfg.tSettleMin ≤ s.now := by
  simp [State.spacedFrom, hp]

/-! ### The timing invariant is kept -/

/-- The timing invariant speaks of the parameters, the phase and its age, the times and the trace only. -/
theorem TimingInv.congr (h : TimingInv s) (hcfg : t.cfg = s.cfg) (hphase : t.phase = s.phase)
    (helapsed : t.elapsed = s.elapsed) (hnow : t.now = s.now) (hrise : t.tRise = s.tRise) (htrace : t.trace = s.trace) :
    TimingInv t := by
  obtain ⟨elapsedLeNow, riseInPulse, pulses, spaced, spacedNow, resetsPast⟩ := h
  constructor <;> simpa only [State.spacedFrom, hcfg, hphase, helapsed, hnow, hrise, htrace]

/-- The timing invariant after entries that are no transfer: what is left to show is about the phase and about the resets
among the new entries. -/
theorem TimingInv.of_extends {ext : List Event} (h : TimingInv s) (hcfg : t.cfg = s.cfg)
    (htrace : t.trace = s.trace ++ ext) (hext : NoXfer ext) (hnow : s.now ≤ t.now)
    (helapsed : t.elapsed ≤ t.now) (hrise : t.phase = .pulse → t.tRise + t.elapsed = t.now)
    (hresets : ∀ r, Event.reset r ∈ ext → r ≤ t.now)
    (hspaced : NoReset ext → ∀ b, s.spacedFrom b → t.spacedFrom b) : TimingInv t where
  elapsedLeNow := helapsed
  riseInPulse := hrise
  pulses := by rw [htrace, hcfg]; exact h.pulses.append hext
  spaced := by rw [htrace, hcfg]; exact h.spaced.append hext
  spacedNow l m rs rw n a b htr hm := by
    obtain ⟨m', hcut, rfl⟩ := cut_of_append (hext rs rw n a b) (htrace.symm.trans htr)
    exact hspaced (fun r hr => hm r (List.mem_append_right _ hr)) b
      (h.spacedNow l m' rs rw n a b hcut fun r hr => hm r (List.mem_append_left _ hr))
  resetsPast r hr := by
    rw [htrace, List.mem_append] at hr
    rcases hr with hr | hr
    · exact (h.resetsPast r hr).trans hnow
    · exact hresets r hr

theorem useMove_timing (h : TimingInv s) : TimingInv s.useMove :=
  h.congr (by simp) (by simp) (by simp) (by simp) (by simp) (by simp)

theorem present_timing (h : TimingInv s) : TimingInv s.present :=
  h.congr (by simp) (by simp) (by simp) (by simp) (by simp) (by simp)

theorem assertReset_timing (h : TimingInv s) : TimingInv s.assertReset := h.congr rfl rfl rfl rfl rfl rfl

theorem consume_timing (h : TimingInv s) : TimingInv s.consume := h.congr rfl rfl rfl rfl rfl rfl

theorem setPend_timing (h : TimingInv s) (p : Option Nibble) : TimingInv (s.setPend p) := h.congr rfl rfl rfl rfl rfl rfl

/-- A drive records no transfer. -/
theorem drive_timing (h : TimingInv s) (p : Pins) : TimingInv (s.drive p) :=
  h.of_extends rfl rfl (noXfer_changeTo _ _ _) le_rfl h.elapsedLeNow h.riseInPulse (by simp) fun _ _ hb => hb

/-- An event that is neither a transfer nor a reset owes nothing. -/
theorem emit_timing (h : TimingInv s) {ev : Event} (hx : NoXfer [ev]) (hr : NoReset [ev]) : TimingInv (s.emit ev) :=
  h.of_extends rfl rfl hx le_rfl h.elapsedLeNow h.riseInPulse (fun r hmem => absurd hmem (hr r)) fun _ _ hb => hb

theorem raiseIllegal_timing (h : TimingInv s) (w : ReqWord) : TimingInv (s.raiseIllegal w) :=
  emit_timing (s := s.setErr) (h.congr rfl rfl rfl rfl rfl rfl) (by simp [NoXfer]) (by simp [NoReset])

theorem cutPulse_timing (h : TimingInv s) : TimingInv s.cutPulse := by
  unfold State.cutPulse
  split
  · exact emit_timing h (by simp [NoXfer]) (by simp [NoReset])
  · exact h

/-- A phase other than PULSE begins: the spacing it keeps is what is left to show. -/
theorem startPhase_timing (h : TimingInv s) {p : Phase} (hp : p ≠ .pulse) (d : Nat)
    (hspaced : ∀ b, s.spacedFrom b → (s.startPhase p d).spacedFrom b) : TimingInv (s.startPhase p d) :=
  h.of_extends rfl (List.append_nil _).symm noXfer_nil le_rfl (Nat.zero_le _) (fun h => absurd h hp) (by simp)
    fun _ => hspaced

/-- The strobe of a nibble begins when the settle of every transfer before it is over. -/
theorem beginNibble_timing (h : TimingInv s) (n : Nibble) (hsettled : ∀ b, s.spacedFrom b → b + s.cfg.tSettleMin ≤ s.now) :
    TimingInv (s.beginNibble n) :=
  startPhase_timing (drive_timing h _) (by decide) _ fun b hb => (spacedFrom_setup rfl).2 (hsettled b hb)

/-- Time that passes counts into the phase, or in IDLE past the settle. -/
theorem spacedFrom_advance {b : Nat} (h : s.spacedFrom b) (δ : Nat) : (s.advance δ).spacedFrom b := by
  unfold State.spacedFrom at h ⊢
  cases hp : s.phase <;> simp [hp] at h ⊢ <;> omega

theorem advance_timing (h : TimingInv s) (δ : Nat) : TimingInv (s.advance δ) := by
  have helapsed := h.elapsedLeNow
  have hrise := h.riseInPulse
  refine h.of_extends rfl (List.append_nil _).symm noXfer_nil (Nat.le_add_right _ _) ?_ (fun hp => ?_) (by simp)
    fun _ b hb => spacedFrom_advance hb δ
  · simp only [State.advance_elapsed, State.advance_now]
    split <;> omega
  · simp only [State.advance_phase] at hp
    simp [hp, ← hrise hp, Nat.add_assoc]

/-- After a reset no transfer before it owes a spacing (R201). -/
theorem takeReset_timing (h : TimingInv s) : TimingInv s.takeReset :=
  (drive_timing (cutPulse_timing h) Pins.low).of_extends rfl rfl (by simp [NoXfer]) le_rfl (Nat.zero_le _)
    (fun h => nomatch h) (by simp [takeReset_eq]) fun hno => absurd (List.mem_singleton_self _) (hno s.now)

/-- Every request accepted in IDLE keeps the timing invariant: IDLE is past the settle of every transfer. -/
theorem Effect.timing {i : Instr} (h : Effect s i t) (ht : TimingInv s) (hp : s.phase = .idle) : TimingInv t := by
  have hsettled (b : Nat) : s.spacedFrom b → b + s.cfg.tSettleMin ≤ s.now := (spacedFrom_idle hp).1
  cases h with
  | byte rs v => exact beginNibble_timing (setPend_timing (drive_timing ht _) _) _ hsettled
  | nibble n => exact beginNibble_timing (setPend_timing ht _) _ hsettled
  | ctrl rs => exact drive_timing ht _
  | waitZero => exact ht
  | waitFor ms => exact startPhase_timing ht (by decide) _ fun b hb => (spacedFrom_wait rfl).2 (hsettled b hb)

/-- E rises when SETUP has lasted its minimum. -/
theorem endSetup_timing (hi : Inv s) (ht : TimingInv s) (hp : s.phase = .setup) (hdue : s.min ≤ s.elapsed) :
    TimingInv s.endSetup := by
  refine ht.of_extends rfl rfl (noXfer_changeTo _ _ _) le_rfl (Nat.zero_le _) (fun _ => rfl) (by simp) fun _ b hb => ?_
  have hmin := hi.setupMin hp
  have hb := (spacedFrom_setup hp).1 hb
  exact (spacedFrom_pulse rfl).2 (show b + s.cfg.tSettleMin + s.cfg.tSuMin ≤ s.now by omega)

/-- The transfer recorded at E's fall has lasted the pulse's minimum, and is spaced from the transfers before it since its
rise. -/
theorem endPulse_timing (hi : Inv s) (ht : TimingInv s) (hp : s.phase = .pulse) (hdue : s.min ≤ s.elapsed) :
    TimingInv s.endPulse := by
  have hrise := ht.riseInPulse hp
  have hmin := hi.pulseMin hp
  obtain ⟨-, -, pulses, spaced, spacedNow, resetsPast⟩ := drive_timing ht { s.pin with e := false }
  have hspaced (l m rs rw n a b) (htr : (s.drive { s.pin with e := false }).trace = l ++ Event.xfer rs rw n a b :: m)
      (hm : NoReset m) : b + s.cfg.tSettleMin + s.cfg.tSuMin ≤ s.tRise :=
    (spacedFrom_pulse hp).1 (spacedNow l m rs rw n a b htr hm)
  exact {
    elapsedLeNow := Nat.zero_le _
    riseInPulse := fun h => nomatch h
    pulses := pulses.concat (show s.tRise + s.cfg.tPwMin ≤ s.now by omega)
    spaced := spaced.concat hspaced
    spacedNow := fun l m rs rw n a b htr hm => (spacedFrom_settle rfl).2 <| by
      show b ≤ s.now
      rcases cut_of_concat htr with ⟨-, hxfer, -⟩ | ⟨m', hcut, rfl⟩
      · cases hxfer; exact le_rfl
      · have := hspaced l m' rs rw n a b hcut fun r hr => hm r (List.mem_append_left _ hr)
        omega
    resetsPast := fun r hr => resetsPast r (by simpa using hr) }

/-- The end of every phase that has lasted its minimum keeps the timing invariant. -/
theorem PhaseEnd.timing (h : PhaseEnd s t) (hi : Inv s) (ht : TimingInv s) (hdue : s.min ≤ s.elapsed) : TimingInv t := by
  have hsettled (hp : s.phase = .settle) (b : Nat) (hb : s.spacedFrom b) : b + s.cfg.tSettleMin ≤ s.now := by
    have hmin := hi.settleMin hp
    have hb := (spacedFrom_settle hp).1 hb
    omega
  cases h with
  | setup hp => exact endSetup_timing hi ht hp hdue
  | pulse hp => exact endPulse_timing hi ht hp hdue
  | settlePending lo hp => exact beginNibble_timing (setPend_timing ht _) _ (hsettled hp)
  | settleLast hp => exact startPhase_timing ht (by decide) _ fun b hb => (spacedFrom_idle rfl).2 (hsettled hp b hb)
  | wait hp =>
    exact startPhase_timing ht (by decide) _ fun b hb => (spacedFrom_idle rfl).2 ((spacedFrom_wait hp).1 hb)

end Sys2Proof.Machine
end

section
/-! Lemmas about the invariant of the levels (40_transport.md R108): what a drive leaves of the past, which transfer still holds
the lines, and which operations keep the invariant. -/

namespace Sys2Proof.Machine

variable {s t : State}

/-- The level invariant speaks of the parameters, the pins, the phase and its age, the times and the trace only. -/
theorem LevelInv.congr (h : LevelInv s) (hcfg : t.cfg = s.cfg) (hpin : t.pin = s.pin) (hphase : t.phase = s.phase)
    (helapsed : t.elapsed = s.elapsed) (hnow : t.now = s.now) (hrise : t.tRise = s.tRise) (htrace : t.trace = s.trace) :
    LevelInv t := by
  obtain ⟨current, phaseLevels, setupLevels, settleEvent, held⟩ := h
  constructor <;> simpa only [LevelsHeld, hcfg, hpin, hphase, helapsed, hnow, hrise, htrace]

/-- Entries that are no transfer and change no level of the past leave every window as it was. -/
theorem LevelsHeld.of_extends {ext : List Event} (h : LevelsHeld s) (hcfg : t.cfg = s.cfg) (hnow : t.now = s.now)
    (htrace : t.trace = s.trace ++ ext) (hext : NoXfer ext)
    (hpast : ∀ u, u < s.now → levelsAt t.trace u = levelsAt s.trace u) : LevelsHeld t := by
  intro l m rs rw n a b htr u hrise hfall hu hresets
  rw [hcfg] at hrise hfall
  rw [hnow] at hu
  obtain ⟨m', hcut, rfl⟩ := cut_of_append (hext rs rw n a b) (htrace.symm.trans htr)
  rw [hpast u hu]
  exact h l m' rs rw n a b hcut u hrise hfall hu fun r hr => hresets r (List.mem_append_left _ hr)

theorem useMove_level (h : LevelInv s) : LevelInv s.useMove :=
  h.congr (by simp) (by simp) (by simp) (by simp) (by simp) (by simp) (by simp)

theorem present_level (h : LevelInv s) : LevelInv s.present :=
  h.congr (by simp) (by simp) (by simp) (by simp) (by simp) (by simp) (by simp)

theorem assertReset_level (h : LevelInv s) : LevelInv s.assertReset := h.congr rfl rfl rfl rfl rfl rfl rfl

theorem consume_level (h : LevelInv s) : LevelInv s.consume := h.congr rfl rfl rfl rfl rfl rfl rfl

theorem setPend_level (h : LevelInv s) (p : Option Nibble) : LevelInv (s.setPend p) :=
  h.congr rfl rfl rfl rfl rfl rfl rfl

/-! ### Operations that begin or end a phase -/

/-- A state in IDLE or WAIT owes the current levels and the windows of the past only. -/
theorem levelInv_of_no_strobe (hp : t.phase = .idle ∨ t.phase = .wait)
    (hcurrent : ∀ u, t.now ≤ u → levelsAt t.trace u = t.pin) (hheld : LevelsHeld t) : LevelInv t where
  current := hcurrent
  phaseLevels h := by rcases hp with hp | hp <;> simp [hp] at h
  setupLevels h := by rcases hp with hp | hp <;> simp [hp] at h
  settleEvent h := by rcases hp with hp | hp <;> simp [hp] at h
  held := hheld

/-- The lines stand at the levels that a drive gives them, and the windows of the past are as they were. -/
theorem drive_current_held (h : LevelInv s) (p : Pins) :
    (∀ u, s.now ≤ u → levelsAt (s.drive p).trace u = p) ∧ LevelsHeld (s.drive p) :=
  ⟨fun _ hu => levelsAt_drive_now s p h.current hu,
    h.held.of_extends rfl rfl rfl (noXfer_changeTo _ _ _) fun _ hu => levelsAt_drive_past s p hu⟩

theorem drive_level_idle (h : LevelInv s) (hp : s.phase = .idle) (p : Pins) : LevelInv (s.drive p) :=
  levelInv_of_no_strobe (.inl hp) (drive_current_held h p).1 (drive_current_held h p).2

theorem startPhase_level {p : Phase} (hp : p = .idle ∨ p = .wait) (h : LevelInv s) (d : Nat) :
    LevelInv (s.startPhase p d) :=
  levelInv_of_no_strobe hp h.current h.held

/-- A nibble's SETUP begins with its drive. -/
theorem beginNibble_level (h : LevelInv s) (n : Nibble) : LevelInv (s.beginNibble n) :=
  have ⟨hcurrent, hheld⟩ := drive_current_held h { s.pin with d := n, e := false }
  { current := hcurrent
    phaseLevels := fun _ => hcurrent
    setupLevels := fun hp => nomatch hp
    settleEvent := fun hp => nomatch hp
    held := hheld }

/-- At E's rise the lines have stood for the minimum of SETUP. -/
theorem endSetup_level (hi : Inv s) (h : LevelInv s) (hp : s.phase = .setup) (hdue : s.min ≤ s.elapsed) :
    LevelInv s.endSetup :=
  have ⟨hcurrent, hheld⟩ := drive_current_held h { s.pin with e := true }
  have hpast (u : Nat) (hu : u < s.now) : levelsAt s.endSetup.trace u = levelsAt s.trace u := levelsAt_drive_past s _ hu
  { current := hcurrent
    phaseLevels := fun _ => hcurrent
    setupLevels := fun _ u hsetup hu => by
      have hmin := hi.setupMin hp
      simp only [State.endSetup_tRise, State.endSetup_cfg] at hsetup hu
      rw [hpast u hu, h.phaseLevels (.inl hp) u (by omega), State.endSetup_pin, ← hi.e_low (by simp [hp])]
    settleEvent := fun hp => nomatch hp
    held := hheld }

/-- In PULSE the levels since the setup began are those of the latches, with E high since its rise. -/
theorem levelsAt_in_pulse (hi : Inv s) (ht : TimingInv s) (h : LevelInv s) (hp : s.phase = .pulse) {u : Nat}
    (hu : s.tRise ≤ u + s.cfg.tSuMin) : levelsAt s.trace u = { s.pin with e := decide (s.tRise ≤ u) } := by
  by_cases hrise : s.tRise ≤ u
  · have hsum := ht.riseInPulse hp
    rw [h.phaseLevels (.inr (.inl hp)) u (by omega), decide_eq_true hrise, ← hi.eHighInPulse.2 hp]
  · rw [h.setupLevels hp u hu (by omega), decide_eq_false hrise]

/-- At E's fall the transfer recorded has the levels that the setup and the pulse held. -/
theorem endPulse_level (hi : Inv s) (ht : TimingInv s) (h : LevelInv s) (hp : s.phase = .pulse) : LevelInv s.endPulse :=
  have ⟨hcurrent, hheld⟩ := drive_current_held h { s.pin with e := false }
  have htrace : s.endPulse.trace = (s.drive { s.pin with e := false }).trace ++
    [.xfer s.pin.rs s.pin.rw s.pin.d s.tRise s.now] := rfl
  have hlevels (u : Nat) : levelsAt s.endPulse.trace u = levelsAt (s.drive { s.pin with e := false }).trace u := by
    rw [htrace, levelsAt_append_one, levelsAfter_xfer]
  { current := fun u hu => (hlevels u).trans (hcurrent u hu)
    phaseLevels := fun _ u hu => (hlevels u).trans (hcurrent u hu)
    setupLevels := fun hp => nomatch hp
    settleEvent := fun _ => ⟨_, _, _, htrace, rfl⟩
    held := fun l m rs rw n a b htr u hrise hfall hu hresets => by
      rw [hlevels]
      rcases cut_of_concat (htrace.symm.trans htr) with ⟨-, hxfer, -⟩ | ⟨m', hcut, rfl⟩
      · cases hxfer
        have hu : u < s.now := hu
        rw [levelsAt_drive_past s _ hu, levelsAt_in_pulse hi ht h hp hrise]
        simp [hu]
      · exact hheld l m' rs rw n a b hcut u hrise hfall hu fun r hr => hresets r (List.mem_append_left _ hr) }

/-! ### Events and reset -/

/-- An event that is neither a transfer nor in SETTLE leaves the levels and what they owe. -/
theorem emit_level (h : LevelInv s) {ev : Event} (hx : NoXfer [ev]) (hpin : ev.isPinChange = false)
    (hp : s.phase ≠ .settle) : LevelInv (s.emit ev) :=
  have hlevels (u : Nat) : levelsAt (s.emit ev).trace u = levelsAt s.trace u := by
    rw [State.emit_trace, levelsAt_append_one, levelsAfter_event hpin]
  { current := fun u hu => (hlevels u).trans (h.current u hu)
    phaseLevels := fun hphase u hu => (hlevels u).trans (h.phaseLevels hphase u hu)
    setupLevels := fun hphase u hsetup hu => (hlevels u).trans (h.setupLevels hphase u hsetup hu)
    settleEvent := fun hphase => absurd hphase hp
    held := h.held.of_extends rfl rfl rfl hx fun u _ => hlevels u }

theorem raiseIllegal_level (h : LevelInv s) (hp : s.phase = .idle) (w : ReqWord) : LevelInv (s.raiseIllegal w) :=
  emit_level (s := s.setErr) (h.congr rfl rfl rfl rfl rfl rfl rfl) (by simp [NoXfer]) rfl (by simp [hp])

theorem cutPulse_level (h : LevelInv s) : LevelInv s.cutPulse := by
  unfold State.cutPulse
  split
  · rename_i hp
    exact emit_level h (by simp [NoXfer]) rfl (by simp [hp])
  · exact h

/-- Reset drives the lines low and returns to IDLE (R200), which owes nothing of the phase cut off. -/
theorem takeReset_level (h : LevelInv s) : LevelInv s.takeReset :=
  have ⟨hcurrent, hheld⟩ := drive_current_held (cutPulse_level h) Pins.low
  have hidle : LevelInv (s.cutPulse.drive Pins.low).toIdle := levelInv_of_no_strobe (.inl rfl) hcurrent hheld
  (emit_level (ev := .reset s.now) hidle (by simp [NoXfer]) rfl (by simp)).congr rfl rfl rfl rfl rfl rfl rfl

/-! ### Time that passes -/

/-- Only SETTLE leaves the hold of a transfer before it open. -/
theorem settle_of_open_hold (ht : TimingInv s) {b : Nat} (hspaced : s.spacedFrom b) (hopen : s.now < b + s.cfg.tSettleMin) :
    s.phase = .settle := by
  cases hp : s.phase with
  | idle => have := (spacedFrom_idle hp).1 hspaced; omega
  | setup => have := (spacedFrom_setup hp).1 hspaced; omega
  | pulse =>
    have hrise := ht.riseInPulse hp
    have := (spacedFrom_pulse hp).1 hspaced
    omega
  | settle => rfl
  | wait => have := (spacedFrom_wait hp).1 hspaced; omega

/-- A transfer with no reset after it whose hold is open is the one of the present SETTLE, whose levels are on the lines. -/
theorem pin_of_open_hold (hi : Inv s) (ht : TimingInv s) (h : LevelInv s) {l m : List Event} {rs rw : Bool} {n : Nibble}
    {a b : Nat} (htr : s.trace = l ++ Event.xfer rs rw n a b :: m) (hm : NoReset m)
    (hopen : s.now < b + s.cfg.tSettleMin) : s.pin = ⟨rs, rw, false, n⟩ ∧ b ≤ s.now := by
  have hp : s.phase = .settle := settle_of_open_hold ht (ht.spacedNow l m rs rw n a b htr hm) hopen
  have he : s.pin.e = false := hi.e_low (by simp [hp])
  obtain ⟨l', a', b', hlast, hfall⟩ := h.settleEvent hp
  rcases cut_of_concat (hlast.symm.trans htr) with ⟨-, hxfer, -⟩ | ⟨m', -, rfl⟩
  · cases hxfer
    exact ⟨by rw [← he], by omega⟩
  · have hgap := ht.spaced l m' [] rs rw n a b _ _ _ a' b' htr fun r hr => hm r (List.mem_append_left _ hr)
    have hpulse := ht.pulses _ _ _ a' b' (hlast ▸ List.mem_append_right l' (List.mem_singleton_self _))
    omega

/-- While time passes the lines keep their levels: those of the transfer whose hold is open. -/
theorem advance_level (hi : Inv s) (ht : TimingInv s) (h : LevelInv s) (δ : Nat) : LevelInv (s.advance δ) where
  current u hu := h.current u (by simp only [State.advance_now] at hu; omega)
  phaseLevels hp u hu := h.phaseLevels hp u <| by
    have hbusy : s.phase ≠ .idle := by rcases hp with hp | hp | hp <;> simp [show s.phase = _ from hp]
    simp only [State.advance_now, State.advance_elapsed, hbusy, if_false] at hu
    omega
  setupLevels := h.setupLevels
  settleEvent hp := by
    have hp : s.phase = .settle := hp
    obtain ⟨l, a, b, hlast, hfall⟩ := h.settleEvent hp
    exact ⟨l, a, b, hlast, by simp [hp, ← hfall, Nat.add_assoc]⟩
  held l m rs rw n a b htr u hrise hfall hu hresets := by
    by_cases hpast : u < s.now
    · exact h.held l m rs rw n a b htr u hrise hfall hpast hresets
    · have hfall : u < b + s.cfg.tSettleMin := hfall
      have hm : NoReset m := fun r hr => by
        have hafter := hresets r hr
        have hbefore := ht.resetsPast r (htr ▸ List.mem_append_right l (List.mem_cons_of_mem _ hr))
        omega
      obtain ⟨hpin, hb⟩ := pin_of_open_hold hi ht h htr hm (by omega)
      rw [State.advance_trace, h.current u (by omega), hpin, decide_eq_false (by omega)]

/-! ### Whole steps -/

/-- Every request accepted in IDLE keeps the level invariant. -/
theorem Effect.level {i : Instr} (h : Effect s i t) (hl : LevelInv s) (hp : s.phase = .idle) : LevelInv t := by
  cases h with
  | byte rs v => exact beginNibble_level (setPend_level (drive_level_idle hl hp _) _) _
  | nibble n => exact beginNibble_level (setPend_level hl _) _
  | ctrl rs => exact drive_level_idle hl hp _
  | waitZero => exact hl
  | waitFor ms => exact startPhase_level (.inr rfl) hl _

/-- The end of every phase that has lasted its minimum keeps the level invariant. -/
theorem PhaseEnd.level (h : PhaseEnd s t) (hi : Inv s) (ht : TimingInv s) (hl : LevelInv s) (hdue : s.min ≤ s.elapsed) :
    LevelInv t := by
  cases h with
  | setup hp => exact endSetup_level hi hl hp hdue
  | pulse hp => exact endPulse_level hi ht hl hp
  | settlePending lo => exact beginNibble_level (setPend_level hl _) _
  | settleLast => exact startPhase_level (.inl rfl) hl _
  | wait => exact startPhase_level (.inl rfl) hl _

end Sys2Proof.Machine
end

section
/-! The statements about the timing and the levels of the transfers (40_transport.md section 3), settled from the lemmas above. -/

namespace Sys2Proof.Machine

/-- Settles O43: reset and every move keep the timing invariant, each by the lemma about what it does. -/
theorem stepKeepsTheTimingInvariant : Obligations.StepKeepsTheTimingInvariant := by
  intro s t hi ht hstep
  have hu : TimingInv s.useMove := useMove_timing ht
  cases step_cases hstep with
  | reset => exact takeReset_timing ht
  | pass k => exact advance_timing hu _
  | present => exact present_timing hu
  | assertReset => exact assertReset_timing hu
  | idleStutter => exact hu
  | accept i _ _ _ hp _ _ he => exact he.timing (consume_timing hu) (by simpa using hp)
  | illegal w => exact raiseIllegal_timing (consume_timing hu) w
  | endPhase _ _ hp hdue =>
    exact (phaseEnd_endPhase (by simpa using hp)).timing (useMove_inv hi) hu (by simpa using hdue)
  | tooEarly => exact hu

/-- Settles O44: reset and every move keep the level invariant, each by the lemma about what it does. -/
theorem stepKeepsTheLevelInvariant : Obligations.StepKeepsTheLevelInvariant := by
  intro s t hi ht hl hstep
  have hu : LevelInv s.useMove := useMove_level hl
  cases step_cases hstep with
  | reset => exact takeReset_level hl
  | pass k => exact advance_level (useMove_inv hi) (useMove_timing ht) hu _
  | present => exact present_level hu
  | assertReset => exact assertReset_level hu
  | idleStutter => exact hu
  | accept i _ _ _ hp _ _ he => exact he.level (consume_level hu) (by simpa using hp)
  | illegal w _ _ hp => exact raiseIllegal_level (consume_level hu) (by simpa using hp) w
  | endPhase _ _ hp hdue =>
    exact (phaseEnd_endPhase (by simpa using hp)).level (useMove_inv hi) (useMove_timing ht) hu (by simpa using hdue)
  | tooEarly => exact hu

/-- A run keeps the three invariants, as every step does. -/
theorem run_keeps_invariants {k : Nat} {s t : State} (hi : Inv s) (ht : TimingInv s) (hl : LevelInv s)
    (hrun : run k s = .next t) : Inv t ∧ TimingInv t ∧ LevelInv t := by
  refine run_keeps (P := fun u => Inv u ∧ TimingInv u ∧ LevelInv u) (fun u v ⟨hi, ht, hl⟩ hstep => ?_) ⟨hi, ht, hl⟩ hrun
  exact ⟨stepKeepsTheFieldInvariant u v hi hstep, stepKeepsTheTimingInvariant u v hi ht hstep,
    stepKeepsTheLevelInvariant u v hi ht hl hstep⟩

/-- Settles O45: the end of the run has the three invariants, and a reset after a window cuts nothing of it. -/
theorem runsHoldLevelsAndSpacing : Obligations.RunsHoldLevelsAndSpacing := by
  intro k s t hi ht hl hrun
  obtain ⟨-, htiming, hlevel⟩ := run_keeps_invariants hi ht hl hrun
  refine ⟨fun l m rs rw n a b htr hresets u hrise hfall hu => ?_, htiming.spaced⟩
  have hheld := hlevel.held l m rs rw n a b htr u hrise hfall hu fun r hr => hfall.trans_le (hresets r hr)
  simp [hheld]

end Sys2Proof.Machine
end

section
/-! Lemmas about the transport requests (40_transport.md R100 to R106): what they and the phases of their strobes leave unchanged,
NSER's own move when a phase is due, and what a whole strobe records. -/

namespace Sys2Proof

/-- The four requests are carried by themselves. -/
theorem decodeCore_of_decode {w : ReqWord} {i : Instr} (h : decode w = .request i) : decodeCore w = .request i.core := by
  obtain ⟨j, hj, rfl⟩ := decode_eq_request_iff.1 h
  rw [core_named, ← decodeCore_encode, encode_of_decodeCore hj]

theorem isLegal_iff_exists_request {w : ReqWord} : isLegal w = true ↔ ∃ i, decode w = .request i := by
  unfold isLegal
  cases decode w <;> simp

namespace Machine

variable {s t : State} {i : Instr} {ms : List Move}

/-! ### The nibbles of a byte -/

/-- The byte is recovered from its nibbles, the high one first (R112). -/
theorem hiNibble_append_loNibble : ∀ v : Byte, hiNibble v ++ loNibble v = v := by decide +kernel

theorem nibbles_toNat : ∀ v : Byte, (hiNibble v).toNat * 16 + (loNibble v).toNat = v.toNat := by decide +kernel

/-! ### What a request does and leaves unchanged -/

theorem exec_of_core_sendNibble {n : Nibble} (h : i.core = .sendNibble n) (s : State) :
    exec i s = s.accept fun s => s.startNibble n := by
  rw [← exec_core, h, exec_sendNibble]

theorem exec_of_core_sendByte {rs : Bool} {v : Byte} (h : i.core = .sendByte rs v) (s : State) :
    exec i s = s.accept fun s => s.startByte rs v := by
  rw [← exec_core, h, exec_sendByte]

/-- A drive adds to the trace at its end. -/
theorem trace_prefix_drive (s : State) (p : Pins) : s.trace <+: (s.drive p).trace := List.prefix_append _ _

/-- A drive is no event. -/
@[simp] theorem drive_events (s : State) (p : Pins) : (s.drive p).events = s.events := by simp [State.events]

@[simp] theorem startNibble_events (s : State) (n : Nibble) : (s.startNibble n).events = s.events := drive_events _ _

theorem trace_prefix_startNibble (s : State) (n : Nibble) : s.trace <+: (s.startNibble n).trace := trace_prefix_drive _ _

@[simp] theorem startByte_events (s : State) (rs : Bool) (v : Byte) : (s.startByte rs v).events = s.events :=
  (drive_events _ _).trans (drive_events _ _)

theorem trace_prefix_startByte (s : State) (rs : Bool) (v : Byte) : s.trace <+: (s.startByte rs v).trace :=
  (trace_prefix_drive _ _).trans (trace_prefix_drive _ _)

theorem Effect.now_eq (h : Effect s i t) : t.now = s.now := by cases h <;> rfl

theorem PhaseEnd.now_eq (h : PhaseEnd s t) : t.now = s.now := by cases h <;> rfl

/-! ### One step -/

/-- NSER's own move ends a phase that is due. -/
theorem step_phaseEnd (hr : s.rst = false) (hs : s.sched = .act :: ms) (hdue : s.min ≤ s.elapsed)
    (h : PhaseEnd { s with sched := ms } t) : step s = .next t := by
  have hp : s.phase ≠ .idle := h.phase_ne_idle
  rw [step_of_sched hr hs, ← h.endPhase_eq]
  simp [State.perform, State.act, hp, hdue]

/-- Time that passes changes the time and the age of a phase other than IDLE. -/
theorem step_pass {k : Nat} (hr : s.rst = false) (hs : s.sched = .pass k :: ms) :
    step s = .next (({ s with sched := ms } : State).advance (k + 1)) :=
  step_of_sched hr hs

/-- NSER's own move in IDLE runs the presented request with the word taken. -/
theorem step_request (hr : s.rst = false) (hs : s.sched = .act :: ms) (hp : s.phase = .idle) (hv : s.reqValid = true)
    (hd : decode s.reqWord = .request i) : step s = exec i (s.hostAt s.reqWord s.stream ms) :=
  (step_of_sched hr hs).trans (act_request (s := { s with sched := ms }) hp hv hd)

theorem step_sendNibble {n : Nibble} (hr : s.rst = false) (hs : s.sched = .act :: ms) (hp : s.phase = .idle)
    (hv : s.reqValid = true) (hd : decode s.reqWord = .request i) (hcore : i.core = .sendNibble n) :
    step s = .next ((s.startNibble n).hostAt s.reqWord s.stream ms) := by
  have hidle : (s.hostAt s.reqWord s.stream ms).phase = .idle := hp
  rw [step_request hr hs hp hv hd, exec_of_core_sendNibble hcore, accept_idle _ hidle]
  rfl

theorem step_sendByte {rs : Bool} {v : Byte} (hr : s.rst = false) (hs : s.sched = .act :: ms) (hp : s.phase = .idle)
    (hv : s.reqValid = true) (hd : decode s.reqWord = .request i) (hcore : i.core = .sendByte rs v) :
    step s = .next ((s.startByte rs v).hostAt s.reqWord s.stream ms) := by
  have hidle : (s.hostAt s.reqWord s.stream ms).phase = .idle := hp
  rw [step_request hr hs hp hv hd, exec_of_core_sendByte hcore, accept_idle _ hidle]
  rfl

/-- NSER's own moves take no time (R106). -/
theorem step_act_now (hr : s.rst = false) (hm : s.nextMove = .act) (hstep : step s = .next t) : t.now = s.now := by
  cases step_cases hstep with
  | reset h => simp [hr] at h
  | pass _ _ h => simp [hm] at h
  | present _ h => simp [hm] at h
  | assertReset _ h => simp [hm] at h
  | idleStutter => simp
  | accept _ _ _ _ _ _ _ he => simpa using he.now_eq
  | illegal => simp
  | endPhase _ _ hp => simpa using (phaseEnd_endPhase (s := s.useMove) (by simpa using hp)).now_eq
  | tooEarly => simp

/-! ### What a whole strobe leaves, whatever the host does -/

@[simp] theorem isPinChange_xfer (rs rw : Bool) (n : Nibble) (a b : Nat) :
    (Event.xfer rs rw n a b).isPinChange = false := rfl

section

variable (s : State) (n : Nibble) (d₁ d₂ d₃ : Nat)

@[simp] theorem strobe_cfg : (s.strobe d₁ d₂ d₃).cfg = s.cfg := by simp [State.strobe]
@[simp] theorem strobe_pin : (s.strobe d₁ d₂ d₃).pin = { s.pin with e := false } := by simp [State.strobe]
@[simp] theorem strobe_phase : (s.strobe d₁ d₂ d₃).phase = .settle := by simp [State.strobe]
@[simp] theorem strobe_pend : (s.strobe d₁ d₂ d₃).pend = s.pend := by simp [State.strobe]
@[simp] theorem strobe_rst : (s.strobe d₁ d₂ d₃).rst = s.rst := by simp [State.strobe]
@[simp] theorem strobe_err : (s.strobe d₁ d₂ d₃).err = s.err := by simp [State.strobe]
@[simp] theorem strobe_now : (s.strobe d₁ d₂ d₃).now = s.now + (d₁ + 1) + (d₂ + 1) + (d₃ + 1) := by simp [State.strobe]

/-- A strobe from SETUP records one transfer of the levels on the lines, with its two edges (R107). -/
@[simp] theorem strobe_events : (s.strobe d₁ d₂ d₃).events =
    s.events ++ [.xfer s.pin.rs s.pin.rw s.pin.d (s.now + (d₁ + 1)) (s.now + (d₁ + 1) + (d₂ + 1))] := by
  simp [State.strobe, State.events]

theorem toIdle_events : s.toIdle.events = s.events := rfl

@[simp] theorem afterNibble_pin : (s.afterNibble n d₁ d₂ d₃).pin = ⟨s.pin.rs, s.pin.rw, false, n⟩ := by
  simp [State.afterNibble]
@[simp] theorem afterNibble_phase : (s.afterNibble n d₁ d₂ d₃).phase = .idle := rfl
@[simp] theorem afterNibble_pend : (s.afterNibble n d₁ d₂ d₃).pend = none := rfl
@[simp] theorem afterNibble_err : (s.afterNibble n d₁ d₂ d₃).err = s.err := by simp [State.afterNibble]
@[simp] theorem afterNibble_now : (s.afterNibble n d₁ d₂ d₃).now = s.now + (d₁ + 1) + (d₂ + 1) + (d₃ + 1) := by
  simp [State.afterNibble]

@[simp] theorem afterNibble_events : (s.afterNibble n d₁ d₂ d₃).events =
    s.events ++ [.xfer s.pin.rs s.pin.rw n (s.now + (d₁ + 1)) (s.now + (d₁ + 1) + (d₂ + 1))] := by
  simp [State.afterNibble, toIdle_events]

variable (w : ReqWord) (ws : List ReqWord) (ms : List Move)

@[simp] theorem hostAt_pin : (s.hostAt w ws ms).pin = s.pin := rfl
@[simp] theorem hostAt_phase : (s.hostAt w ws ms).phase = s.phase := rfl
@[simp] theorem hostAt_pend : (s.hostAt w ws ms).pend = s.pend := rfl
@[simp] theorem hostAt_err : (s.hostAt w ws ms).err = s.err := rfl
@[simp] theorem hostAt_now : (s.hostAt w ws ms).now = s.now := rfl
@[simp] theorem hostAt_events : (s.hostAt w ws ms).events = s.events := rfl

end

end Machine

end Sys2Proof
end

section
/-! The statements about the transport requests and their strobes (40_transport.md sections 1, 2 and 4), settled from the lemmas
above. -/

namespace Sys2Proof.Machine

/-- Settles O53: by induction on the stream, each word adding the transfers of the request that carries it. -/
theorem streamTransferCount : Obligations.StreamTransferCount := by
  intro rs rw ws
  induction ws generalizing rs rw with
  | nil => intro _; rfl
  | cons w ws ih =>
    intro hlegal
    obtain ⟨i, hd⟩ := isLegal_iff_exists_request.1 (hlegal w (List.mem_cons_self ..))
    rw [streamLines_request hd, List.length_append, ih _ _ fun v hv => hlegal v (List.mem_cons_of_mem _ hv),
      List.countP_cons, List.countP_cons, decodeCore_of_decode hd, Instr.lines]
    cases i.core <;> simp <;> omega

/-- Settles O54: the acceptance, then one whole strobe. -/
theorem sendNibbleRunsToIdle : Obligations.SendNibbleRunsToIdle := by
  intro s i n d₁ d₂ d₃ ms hr hp hv hd hcore h₁ h₂ h₃ hs
  have haccept := step_sendNibble hr hs hp hv hd hcore
  have hrun : run 7 s = .next ((s.afterNibble n d₁ d₂ d₃).hostAt s.reqWord s.stream ms) :=
    (run_succ haccept).trans (run_startNibble hr n h₁ h₂ h₃)
  have htime : s.now + strobeTime s.cfg ≤ s.now + (d₁ + 1) + (d₂ + 1) + (d₃ + 1) := by
    unfold strobeTime
    omega
  exact ⟨_, hrun, by simpa using htime⟩

/-- Settles O55: the acceptance, the high nibble's strobe, and the low nibble's, which starts at the end of the first SETTLE. -/
theorem sendByteRunsToIdle : Obligations.SendByteRunsToIdle := by
  intro s i rs v d₁ d₂ d₃ d₄ d₅ d₆ ms hr hp hv hd hcore h₁ h₂ h₃ h₄ h₅ h₆ hs
  have haccept := step_sendByte hr hs hp hv hd hcore
  have hnext : PhaseEnd ((s.startByte rs v).strobe d₁ d₂ d₃)
      (((s.startByte rs v).strobe d₁ d₂ d₃).startNibble (loNibble v)) := .settlePending (loNibble v) (strobe_phase ..) (by simp)
  have hhigh := run_strobe (s := s.startByte rs v) (w := s.reqWord) (ws := s.stream)
    (ms := .pass d₄ :: .act :: .pass d₅ :: .act :: .pass d₆ :: .act :: ms) hr rfl rfl h₁ h₂ h₃ hnext
  have hlow := run_startNibble (s := (s.startByte rs v).strobe d₁ d₂ d₃) (w := s.reqWord) (ws := s.stream) (ms := ms)
    (by simpa using hr) (loNibble v) (by simpa using h₄) (by simpa using h₅) (by simpa using h₆)
  have hrun : run 13 s = .next ((((s.startByte rs v).strobe d₁ d₂ d₃).afterNibble (loNibble v) d₄ d₅ d₆).hostAt
      s.reqWord s.stream ms) := (run_succ haccept).trans (run_trans hhigh hlow)
  have htime : s.now + 2 * strobeTime s.cfg ≤
      s.now + (d₁ + 1) + (d₂ + 1) + (d₃ + 1) + (d₄ + 1) + (d₅ + 1) + (d₆ + 1) := by
    unfold strobeTime
    omega
  exact ⟨_, hiNibble v, loNibble v, hrun, hiNibble_append_loNibble v, nibbles_toNat v, by simpa using htime⟩

/-- Settles O14: in IDLE the request is accepted. -/
theorem sendByteStartsItsHighNibble : Obligations.SendByteStartsItsHighNibble :=
  fun rs v s hp => (exec_sendByte rs v s).trans (accept_idle _ hp)

/-- Settles O15: in IDLE the request is accepted. -/
theorem sendNibbleStartsItsStrobe : Obligations.SendNibbleStartsItsStrobe :=
  fun n s hp => (exec_sendNibble n s).trans (accept_idle _ hp)

/-- Settles O23: each is carried by a SEND_NIBBLE, which is accepted or held. -/
theorem frameOfNibbleRequests : Obligations.FrameOfNibbleRequests := by
  intro i s t hi hexec
  obtain ⟨n, hcore⟩ : ∃ n, i.core = .sendNibble n := by rcases hi with ⟨n, rfl⟩ | rfl | rfl <;> exact ⟨_, rfl⟩
  rw [exec_of_core_sendNibble hcore] at hexec
  rcases accept_cases hexec with ⟨-, rfl⟩ | ⟨-, rfl⟩
  · exact ⟨rfl, rfl, rfl, rfl, rfl, startNibble_events s n, trace_prefix_startNibble s n, rfl, rfl, rfl, rfl, rfl, rfl, rfl⟩
  · exact ⟨rfl, rfl, rfl, rfl, rfl, rfl, List.prefix_rfl, rfl, rfl, rfl, rfl, rfl, rfl, rfl⟩

/-- Settles O24: each is carried by a SEND_BYTE, which is accepted or held. -/
theorem frameOfByteRequests : Obligations.FrameOfByteRequests := by
  intro i s t hi hexec
  obtain ⟨rs, v, hcore⟩ : ∃ rs v, i.core = .sendByte rs v := by
    rcases hi with ⟨rs, v, rfl⟩ | rfl | rfl | ⟨id, sh, rfl⟩ | ⟨d, c, b, rfl⟩ | ⟨sc, rl, rfl⟩ | ⟨dl, n, f, rfl⟩ | ⟨a, rfl⟩ |
      ⟨a, rfl⟩ | ⟨v, rfl⟩ <;> exact ⟨_, _, rfl⟩
  rw [exec_of_core_sendByte hcore] at hexec
  rcases accept_cases hexec with ⟨-, rfl⟩ | ⟨-, rfl⟩
  · exact ⟨rfl, rfl, rfl, startByte_events s rs v, trace_prefix_startByte s rs v, rfl, rfl, rfl, rfl, rfl, rfl, rfl⟩
  · exact ⟨rfl, rfl, rfl, rfl, List.prefix_rfl, rfl, rfl, rfl, rfl, rfl, rfl, rfl⟩

/-- Settles O26: E is low in every phase but PULSE. -/
theorem beginNibbleStartsSetup : Obligations.BeginNibbleStartsSetup :=
  ⟨fun _ _ => rfl, fun _ hi hp => hi.e_low (by rcases hp with hp | hp <;> simp [hp])⟩

/-- Settles O28: NSER's own move ends SETUP, and time that passes instead counts into it. -/
theorem setupEndsWithTheRisingEdge : Obligations.SetupEndsWithTheRisingEdge :=
  ⟨fun _ _ hr hs hp hdue => step_phaseEnd hr hs hdue (.setup hp),
    fun _ _ _ hr hs hp _ => ⟨_, step_pass hr hs, hp, rfl, by simp [hp]⟩⟩

/-- Settles O29: NSER's own move ends PULSE. -/
theorem pulseEndsWithTheTransfer : Obligations.PulseEndsWithTheTransfer :=
  fun _ _ hr hs hp hdue => step_phaseEnd hr hs hdue (.pulse hp)

/-- Settles O30: NSER's own move ends SETTLE, with a nibble pending or without. -/
theorem settleEndsWithTheLowNibbleOrIdle : Obligations.SettleEndsWithTheLowNibbleOrIdle :=
  ⟨fun _ _ lo hr hs hp hdue hl => step_phaseEnd hr hs hdue (.settlePending lo hp hl),
    fun _ _ hr hs hp hdue hl => step_phaseEnd hr hs hdue (.settleLast hp hl)⟩

/-- Settles O33: a phase lasts the duration `d` when `d` ns pass before NSER's own move. -/
theorem timePassesFreely : Obligations.TimePassesFreely := by
  refine ⟨fun s k ms hr hs => ?_, fun s t ms hr hs => step_act_now hr (nextMove_of_sched hs),
    fun s d ms hr hp helapsed hd hmin hs => ?_⟩
  · simp [step_pass hr hs, State.advance]
  · have hpass : step s = .next { s with sched := .act :: ms, now := s.now + d, elapsed := d } := by
      simp [step_pass hr hs, State.advance, hp, helapsed, Nat.sub_add_cancel hd]
    have hend := phaseEnd_endPhase (s := { s with sched := ms, now := s.now + d, elapsed := d }) hp
    have hact := step_phaseEnd (s := { s with sched := .act :: ms, now := s.now + d, elapsed := d }) hr rfl hmin hend
    exact ⟨_, (run_succ hpass).trans (run_succ hact), rfl, hend.now_eq⟩

end Sys2Proof.Machine
end

section
/-! Lemmas about the control requests (41_control.md R130 to R133): what SET_CTRL and WAIT can answer, and the step that accepts
a WAIT. -/

namespace Sys2Proof.Machine

variable {s t : State} {m : WaitCount} {ms : List Move}

/-- SET_CTRL is held, or is one drive (R130). -/
theorem exec_setCtrl_cases {rs : Bool} (h : exec (.setCtrl rs) s = .next t) : t = s ∨ t = s.afterCtrl rs := by
  rw [exec_setCtrl] at h
  rcases accept_cases h with ⟨-, rfl⟩ | ⟨-, rfl⟩
  · exact .inr rfl
  · exact .inl rfl

/-- A WAIT of 0 changes nothing, in IDLE or held (R133). -/
theorem exec_wait_zero (s : State) : exec (.wait 0) s = .next s := by
  by_cases hp : s.phase = .idle
  · exact (exec_wait 0 s).trans (accept_idle _ hp)
  · exact (exec_wait 0 s).trans (accept_busy _ hp)

/-- Any other WAIT accepted in IDLE is one phase (R131). -/
theorem exec_wait_idle (hp : s.phase = .idle) (hm : m ≠ 0) :
    exec (.wait m) s = .next (s.startPhase .wait (waitDuration s.cfg m)) := by
  rw [exec_wait, accept_idle _ hp, if_neg hm]

/-- WAIT changes nothing, or starts its phase (R131, R133). -/
theorem exec_wait_cases (h : exec (.wait m) s = .next t) : t = s ∨ t = s.startPhase .wait (waitDuration s.cfg m) := by
  rw [exec_wait] at h
  rcases accept_cases h with ⟨-, rfl⟩ | ⟨-, rfl⟩
  · by_cases hm : m = 0
    · exact .inl (if_pos hm)
    · exact .inr (if_neg hm)
  · exact .inl rfl

/-- NSER's own move accepts a presented WAIT with a count other than 0. -/
theorem step_wait (hr : s.rst = false) (hs : s.sched = .act :: ms) (hp : s.phase = .idle) (hv : s.reqValid = true)
    (hd : decode s.reqWord = .request (.wait m)) (hm : m ≠ 0) :
    step s = .next ((s.startPhase .wait (waitDuration s.cfg m)).hostAt s.reqWord s.stream ms) :=
  (step_request hr hs hp hv hd).trans (exec_wait_idle hp hm)

end Sys2Proof.Machine
end

section
/-! The statements about the control requests (41_control.md section 1), settled from the lemmas above. -/

namespace Sys2Proof.Machine

/-- Settles O56: the acceptance, then the one phase that it starts. -/
theorem waitRunsToIdle : Obligations.WaitRunsToIdle := by
  intro s m d ms hr hp hv hd hm hdur hs
  have haccept := step_wait hr hs hp hv hd hm
  have hdue : waitDuration s.cfg m ≤ 0 + (d + 1) := hdur.trans_eq (Nat.zero_add _).symm
  have hphase : run 2 ((s.startPhase .wait (waitDuration s.cfg m)).hostAt s.reqWord s.stream (.pass d :: .act :: ms)) = _ :=
    run_phase hr hdue (.wait rfl)
  exact (run_succ haccept).trans hphase

/-- Settles O16: in IDLE the request is accepted. -/
theorem setCtrlForcesTheControlLines : Obligations.SetCtrlForcesTheControlLines :=
  fun rs s hp => (exec_setCtrl rs s).trans (accept_idle _ hp)

/-- Settles O17: in IDLE the request is accepted, and its count is not 0. -/
theorem waitStartsItsPhase : Obligations.WaitStartsItsPhase :=
  fun _ _ hp hm => exec_wait_idle hp hm

/-- Settles O18: the word is that of WAIT 0, and IDLE is the phase in which NSER is ready. -/
theorem waitZeroChangesNothing : Obligations.WaitZeroChangesNothing :=
  ⟨by decide, fun s hp => ⟨exec_wait_zero s, by simp [State.readyO, hp]⟩⟩

/-- Settles O25: SET_CTRL is at most a drive, and WAIT at most the start of a phase. -/
theorem frameOfControlRequests : Obligations.FrameOfControlRequests := by
  refine ⟨fun rs s t hexec => ?_, fun ms s t hexec => ?_, fun i s t hi hexec => ?_⟩
  · rcases exec_setCtrl_cases hexec with rfl | rfl <;> exact ⟨rfl, rfl, rfl, rfl⟩
  · rcases exec_wait_cases hexec with rfl | rfl <;> exact ⟨rfl, rfl⟩
  · have hcases : t = s ∨ (∃ p, t = s.drive p) ∨ ∃ p d, t = s.startPhase p d := by
      rcases hi with ⟨rs, rfl⟩ | ⟨ms, rfl⟩
      · exact (exec_setCtrl_cases hexec).imp_right fun h => .inl ⟨_, h⟩
      · exact (exec_wait_cases hexec).imp_right fun h => .inr ⟨_, _, h⟩
    rcases hcases with rfl | ⟨p, rfl⟩ | ⟨p, d, rfl⟩
    · exact ⟨rfl, rfl, rfl, rfl, rfl, List.prefix_rfl, rfl, rfl, rfl, rfl, rfl, rfl, rfl⟩
    · exact ⟨rfl, rfl, rfl, rfl, drive_events s p, trace_prefix_drive s p, rfl, rfl, rfl, rfl, rfl, rfl, rfl⟩
    · exact ⟨rfl, rfl, rfl, rfl, rfl, List.prefix_rfl, rfl, rfl, rfl, rfl, rfl, rfl, rfl⟩

/-- Settles O31: NSER's own move ends WAIT, and time that passes instead counts into it. -/
theorem waitEndsInIdle : Obligations.WaitEndsInIdle :=
  ⟨fun _ _ hr hs hp hdue => step_phaseEnd hr hs hdue (.wait hp),
    fun _ _ _ hr hs hp _ => ⟨_, step_pass hr hs, hp, rfl, by simp [hp]⟩⟩

end Sys2Proof.Machine
end

section
/-! Lemmas about the payload bytes and their streams (42_payload_commands.md): the highest set bit of a byte, the word that
carries a byte, and the transfers of such words. -/

namespace Sys2Proof

/-- Well-formed instructions that carry the same byte are the same, options and all: the byte's name gives them back. -/
theorem eq_of_carried_byte_eq {i j : Instr} {rs : Bool} {v w : Byte} (hi : i.wellFormed = true) (hj : j.wellFormed = true)
    (hv : i.core = .sendByte rs v) (hw : j.core = .sendByte rs w) (h : v = w) : i = j := by
  rw [← named_core_of_wellFormed hi, hv, h, ← hw, named_core_of_wellFormed hj]

namespace Machine

/-! ### The bytes of R150 to R157 -/

/-- Bit `k` is the highest set bit of the bytes from `2 ^ k` up to the next power of two. -/
theorem highestSetBit_eq_some {v : Byte} {k : Nat} (h : 2 ^ k ≤ v.toNat ∧ v.toNat < 2 ^ (k + 1)) :
    highestSetBit v = some k := by
  obtain ⟨hge, hlt⟩ := h
  have hk : k < 8 := (Nat.pow_lt_pow_iff_right (by decide)).1 (hge.trans_lt v.isLt)
  have hset : v.getLsbD k = true := Nat.testBit_of_two_pow_le_and_two_pow_add_one_gt hge hlt
  have habove : ∀ j, k < j → v.getLsbD j = false := fun j hj =>
    Nat.testBit_lt_two_pow (hlt.trans_le (Nat.pow_le_pow_right (by decide) hj))
  rw [highestSetBit, List.find?_eq_some_iff_getElem]
  refine ⟨hset, 7 - k, by simp; omega, by simp; omega, fun j hj => ?_⟩
  simpa using habove _ (by omega)

/-- An address of `k` bits lies below the opcode bit `k` (R156, R157). -/
theorem highestSetBit_opcode_or_address {k : Nat} (hk : k < 8) (a : BitVec k) :
    highestSetBit (BitVec.twoPow 8 k ||| a.setWidth 8) = some k := by
  have ha := a.isLt
  have hpow : 2 ^ k < 2 ^ 8 := Nat.pow_lt_pow_right (by decide) hk
  have hbyte : (BitVec.twoPow 8 k ||| a.setWidth 8).toNat = 2 ^ k + a.toNat := by
    rw [BitVec.toNat_or, BitVec.toNat_twoPow, BitVec.toNat_setWidth, Nat.mod_eq_of_lt hpow, Nat.mod_eq_of_lt (ha.trans hpow)]
    simpa using (Nat.two_pow_add_eq_or_of_lt ha 1).symm
  exact highestSetBit_eq_some (by omega)

/-! ### The words that carry a byte -/

theorem encode_sendByte_eq (rs : Bool) (v : Byte) :
    encode (.sendByte rs v) = BitVec.ofNat 16 (2 ^ 8 * rs.toNat) ||| v.setWidth 16 := by
  simpa using encode_sendByte_ofNat rs v.isLt

/-- An instruction that a SEND_BYTE with RS = 0 carries has its byte as its word. -/
theorem encode_of_core_command {i : Instr} {v : Byte} (h : i.core = .sendByte false v) : encode i = v.setWidth 16 := by
  rw [← encode_core, h, encode_sendByte_eq]
  simp

/-- The word of PUTC is its byte under the RS bit (R158). -/
theorem encode_putc (v : Byte) : encode (.putc v) = 0x0100 ||| v.setWidth 16 :=
  (encode_core (.putc v)).symm.trans (encode_sendByte_eq true v)

theorem words_putc (bytes : List Byte) : words (bytes.map .putc) = bytes.map fun b => 0x0100 ||| b.setWidth 16 := by
  simp [words, Function.comp_def, encode_putc]

/-! ### The transfers of the words that carry a byte -/

/-- A request carried by a SEND_BYTE has two transfers, high nibble first, and leaves its RS (R101). -/
theorem streamLines_of_core_sendByte {i : Instr} {r : Bool} {v : Byte} (h : i.core = .sendByte r v) (rs rw : Bool)
    (ws : List ReqWord) : streamLines rs rw (encode i :: ws) =
      [⟨r, false, hiNibble v⟩, ⟨r, false, loNibble v⟩] ++ streamLines r false ws := by
  have hcore : i.core.named.core = .sendByte r v := by rw [core_named, h, Instr.core]
  rw [streamLines_request (decode_request (decodeCore_encode i))]
  simp [Instr.lines, Instr.rsAfter, Instr.rwAfter, hcore]

/-- Data writes have the nibbles of their bytes as transfers, byte by byte. -/
theorem streamLines_putc (bytes : List Byte) (rs rw : Bool) : streamLines rs rw (words (bytes.map .putc)) =
    bytes.flatMap fun b => [⟨true, false, hiNibble b⟩, ⟨true, false, loNibble b⟩] := by
  induction bytes generalizing rs rw with
  | nil => rfl
  | cons b bytes ih =>
    rw [List.flatMap_cons, ← ih true false]
    exact streamLines_of_core_sendByte (i := .putc b) rfl rs rw _

/-! ### The address of a character (R162) -/

theorem characterAddress_word : ∀ index < 8,
    encode (.sendByte false (0x40 ||| BitVec.ofNat 8 (index * 8))) = BitVec.ofNat 16 (0x40 ||| index * 8) := by
  decide

/-- Eight rows lie at each index, so that the index stands in bits 5 to 3. -/
theorem characterAddress_nibbles : ∀ index < 8,
    hiNibble (0x40 ||| BitVec.ofNat 8 (index * 8)) = BitVec.ofNat 4 (4 + index / 2) ∧
    loNibble (0x40 ||| BitVec.ofNat 8 (index * 8)) = BitVec.ofNat 4 (index % 2 * 8) := by
  decide

/-- The words of a character's programming: the address, then the rows as data writes. -/
theorem words_setCgCharacter {index : Nat} (h : index < 8) (pattern : Vector Byte 8) :
    words (setCgCharacter index pattern) =
      encode (.sendByte false (0x40 ||| BitVec.ofNat 8 (index * 8))) :: words (pattern.toList.map .putc) := by
  rw [setCgCharacter, if_pos h]
  rfl

end Machine

end Sys2Proof
end

section
/-! The statements about the payload commands and the host's operations (42_payload_commands.md), settled from the lemmas
above. -/

namespace Sys2Proof.Machine

/-- Settles O9: each byte lies between its opcode bit and twice that, and equal bytes have the same name, options and all. -/
theorem payloadBytesDetermineTheirOptions : Obligations.PayloadBytesDetermineTheirOptions := by
  have hentry : ∀ id sh, 2 ^ 2 ≤ (entryByte id sh).toNat ∧ (entryByte id sh).toNat < 2 ^ 3 := by decide
  have hdispctl : ∀ d c b, 2 ^ 3 ≤ (dispctlByte d c b).toNat ∧ (dispctlByte d c b).toNat < 2 ^ 4 := by decide
  have hshift : ∀ sc rl, 2 ^ 4 ≤ (shiftByte sc rl).toNat ∧ (shiftByte sc rl).toNat < 2 ^ 5 := by decide
  have hfuncset : ∀ dl n f, 2 ^ 5 ≤ (funcsetByte dl n f).toNat ∧ (funcsetByte dl n f).toNat < 2 ^ 6 := by decide
  exact ⟨rfl, fun id sh => highestSetBit_eq_some (hentry id sh), fun d c b => highestSetBit_eq_some (hdispctl d c b),
    fun sc rl => highestSetBit_eq_some (hshift sc rl), fun dl n f => highestSetBit_eq_some (hfuncset dl n f),
    highestSetBit_opcode_or_address (by decide), highestSetBit_opcode_or_address (by decide),
    fun _ _ _ _ h => Instr.entry.inj (eq_of_carried_byte_eq rfl rfl rfl rfl h),
    fun _ _ _ _ _ _ h => Instr.dispctl.inj (eq_of_carried_byte_eq rfl rfl rfl rfl h),
    fun _ _ _ _ h => Instr.shift.inj (eq_of_carried_byte_eq rfl rfl rfl rfl h),
    fun _ _ _ _ _ _ h => Instr.funcset.inj (eq_of_carried_byte_eq rfl rfl rfl rfl h),
    fun _ _ h => Instr.setcgram.inj (eq_of_carried_byte_eq rfl rfl rfl rfl h),
    fun _ _ h => Instr.setddram.inj (eq_of_carried_byte_eq rfl rfl rfl rfl h)⟩

/-- Settles O19: in IDLE the request is accepted, and its effect is the start of its rule's byte. -/
theorem payloadRequestsStartTheirByte : Obligations.PayloadRequestsStartTheirByte := by
  intro s hp
  exact ⟨(exec_clear s).trans (accept_idle _ hp), (exec_home s).trans (accept_idle _ hp),
    fun id sh => (exec_entry id sh s).trans (accept_idle _ hp), fun d c b => (exec_dispctl d c b s).trans (accept_idle _ hp),
    fun sc rl => (exec_shift sc rl s).trans (accept_idle _ hp), fun dl n f => (exec_funcset dl n f s).trans (accept_idle _ hp),
    fun a => (exec_setcgram a s).trans (accept_idle _ hp), fun a => (exec_setddram a s).trans (accept_idle _ hp),
    fun v => (exec_putc v s).trans (accept_idle _ hp)⟩

/-- Settles O59: the address's word and its two transfers, then those of the eight data writes. -/
theorem characterProgrammingStream : Obligations.CharacterProgrammingStream := by
  intro index pattern rs rw
  refine ⟨fun hindex => ?_, fun hindex => ?_⟩
  · have hwords : words (setCgCharacter index pattern) =
        BitVec.ofNat 16 (0x40 ||| index * 8) :: pattern.toList.map (fun b => 0x0100 ||| b.setWidth 16) := by
      rw [words_setCgCharacter hindex, characterAddress_word index hindex, words_putc]
    have hlines : streamLines rs rw (words (setCgCharacter index pattern)) =
        [⟨false, false, BitVec.ofNat 4 (4 + index / 2)⟩, ⟨false, false, BitVec.ofNat 4 (index % 2 * 8)⟩] ++
        pattern.toList.flatMap fun b => [⟨true, false, hiNibble b⟩, ⟨true, false, loNibble b⟩] := by
      obtain ⟨hhigh, hlow⟩ := characterAddress_nibbles index hindex
      rw [words_setCgCharacter hindex, streamLines_of_core_sendByte rfl, streamLines_putc, hhigh, hlow]
    exact ⟨hwords, by simp [hwords], hlines, by simp [hlines, List.length_flatMap]⟩
  · rw [setCgCharacter, if_neg (by omega)]
    rfl

/-- Settles O60: a text is its data writes, and every other operation one command, with a WAIT after Return-Home. -/
theorem operationStreams : Obligations.OperationStreams := by
  refine ⟨fun text => ⟨words_putc text, rfl⟩, fun a ha => ?_, fun a ha => ?_, by decide, by decide, by decide, by decide,
    fun d c b => ?_, by decide⟩
  · rw [setCursorPos, if_pos ha]
    exact congrArg (fun w => [w]) (encode_of_core_command rfl)
  · rw [setCursorPos, if_neg (BitVec.not_le.2 ha)]
    rfl
  · exact congrArg (fun w => [w]) (encode_of_core_command rfl)

end Sys2Proof.Machine
end

section
/-! Lemmas about the illegal request (60_exceptions.md R180, R181): every step answers a next state, and what the acceptance of a
word leaves of the error and the parameters. -/

namespace Sys2Proof

/-- Bit 9 of a word, RW, takes part in the zero test of bits 13..9 (R76). -/
theorem field9_ne_zero_of_rw {w : ReqWord} (h : w.getLsbD 9 = true) : w.extractLsb' 9 5 ≠ 0 := by
  intro hzero
  have hbit : (w.extractLsb' 9 5).getLsbD 0 = w.getLsbD 9 := by simp
  rw [hzero, h] at hbit
  simp at hbit

theorem isLegal_of_request {w : ReqWord} {i : Instr} (h : decode w = .request i) : isLegal w = true :=
  isLegal_iff_exists_request.2 ⟨i, h⟩

theorem isLegal_of_illegal {w v : ReqWord} (h : decode w = .illegal v) : isLegal w = false := by simp [isLegal, h]

namespace Machine

variable {s t : State} {i : Instr} {ms : List Move}

/-! ### Every step answers -/

/-- Every instruction is accepted or held. -/
theorem exists_exec (i : Instr) (s : State) : ∃ t, exec i s = .next t := by cases i <;> exact ⟨_, rfl⟩

theorem exists_act (s : State) : ∃ t, s.act = .next t := by
  unfold State.act State.acceptWord
  split
  · split
    · split
      · exact exists_exec _ _
      · exact ⟨_, rfl⟩
    · exact ⟨_, rfl⟩
  · split <;> exact ⟨_, rfl⟩

theorem exists_step (s : State) : ∃ t, step s = .next t := by
  unfold step
  split
  · exact ⟨_, rfl⟩
  · cases s.nextMove with
    | act => exact exists_act _
    | pass _ | present | assertReset => exact ⟨_, rfl⟩

/-! ### What acceptance and the end of a phase leave unchanged -/

theorem Effect.cfg_eq (h : Effect s i t) : t.cfg = s.cfg := by cases h <;> rfl

theorem Effect.err_eq (h : Effect s i t) : t.err = s.err := by cases h <;> rfl

theorem PhaseEnd.cfg_eq (h : PhaseEnd s t) : t.cfg = s.cfg := by cases h <;> rfl

theorem PhaseEnd.err_eq (h : PhaseEnd s t) : t.err = s.err := by cases h <;> rfl

/-- NSER's own move in IDLE raises the error for an illegal word (R181). -/
theorem step_illegal {w : ReqWord} (hr : s.rst = false) (hs : s.sched = .act :: ms) (hp : s.phase = .idle)
    (hv : s.reqValid = true) (hd : decode s.reqWord = .illegal w) :
    step s = .next ((s.hostAt s.reqWord s.stream ms).raiseIllegal w) := by
  rw [step_of_sched hr hs]
  simp [State.perform, State.act, State.acceptWord, hp, hv, hd, State.hostAt, State.consume]

end Machine

end Sys2Proof
end

section
/-! The statements about the illegal request and the error (60_exceptions.md section 1), settled from the lemmas above. -/

namespace Sys2Proof.Machine

/-- Settles O35: the decoder refuses the word, and RW is one of the bits that must be 0. -/
theorem illegalWordSetsTheErrorOnly : Obligations.IllegalWordSetsTheErrorOnly := by
  refine ⟨fun s ms hr hs hp hv hillegal => ?_, fun w hop hrw => (isLegal_eq_false_iff_fields w).2 ?_⟩
  · exact step_illegal hr hs hp hv (decode_illegal (isLegal_eq_false_iff.1 hillegal))
  · have hzero := field9_ne_zero_of_rw hrw
    exact hop.elim (fun h => .inl ⟨h, hzero⟩) fun h => .inr (.inr ⟨h, .inl hzero⟩)

/-- Settles O36: of the cases of a step without a reset only the acceptance of an illegal word touches the error. -/
theorem errorIsSticky : Obligations.ErrorIsSticky := by
  intro s t hr hstep
  cases step_cases hstep with
  | reset h => simp [hr] at h
  | pass _ _ hm => simp [hm]
  | present _ hm => simp [hm]
  | assertReset _ hm => simp [hm]
  | idleStutter _ _ _ hv => simp [hv]
  | accept _ _ _ _ _ _ hd he => simp [he.err_eq, isLegal_of_request hd]
  | illegal w _ hm hp hv hd => simp [hm, hp, hv, isLegal_of_illegal hd]
  | endPhase _ _ hp => simp [(phaseEnd_endPhase (s := s.useMove) (by simpa using hp)).err_eq, hp]
  | tooEarly _ _ hp => simp [hp]

/-- Settles O40: every case of a step keeps the parameters, and only time that passes changes the time. -/
theorem everyStepAnswersANextState : Obligations.EveryStepAnswersANextState := by
  intro s
  obtain ⟨t, hstep⟩ := exists_step s
  refine ⟨t, hstep, ?_⟩
  cases step_cases hstep with
  | reset => simp [takeReset_eq]
  | pass => simp
  | present => simp
  | assertReset => simp
  | idleStutter => simp
  | accept _ _ _ _ _ _ _ he => simp [he.cfg_eq, he.now_eq]
  | illegal => simp
  | endPhase _ _ hp =>
    have hend : PhaseEnd s.useMove s.useMove.endPhase := phaseEnd_endPhase (by simpa using hp)
    simp [hend.cfg_eq, hend.now_eq]
  | tooEarly => simp

end Sys2Proof.Machine
end

section
/-! Lemmas about what the requests come to (60_exceptions.md R182, 70_reset_and_hazards.md R230): the error, the transfers, the
levels and the earliest time at the end, which an operation without a reset keeps. -/

namespace Sys2Proof.Machine

/-- What stands when every request of a state has been performed: the error, the transfers of the whole trace, and the levels of
RS, RW and D7..D4. -/
structure Ending where
  err : Bool
  transfers : List Lines
  levels : Lines

/-- The ending that the requests of `s` come to. -/
def State.ending (s : State) : Ending := ⟨s.endErr, transfers s.trace ++ s.owed, s.endLevels⟩

/-- The time before which the requests of `s` cannot all be done. -/
def State.earliestEnd (s : State) : Nat := s.now + s.remaining

variable {s t : State} {i : Instr}

/-! ### The words not accepted yet -/

theorem waiting_of_reqValid (hv : s.reqValid = true) : s.waiting = s.reqWord :: s.stream := by simp [State.waiting, hv]

theorem waiting_of_not_reqValid (hv : s.reqValid = false) : s.waiting = s.stream := by simp [State.waiting, hv]

theorem Effect.waiting_eq (h : Effect s i t) : t.waiting = s.waiting := by cases h <;> rfl

theorem PhaseEnd.waiting_eq (h : PhaseEnd s t) : t.waiting = s.waiting := by cases h <;> rfl

theorem streamLevels_request {w : ReqWord} (h : decode w = .request i) (p : Lines) (ws : List ReqWord) :
    streamLevels p (w :: ws) = streamLevels ⟨i.rsAfter p.rs, i.rwAfter p.rw, i.dAfter p.n⟩ ws := by
  simp [streamLevels, h]

theorem streamLevels_illegal {w v : ReqWord} (h : decode w = .illegal v) (p : Lines) (ws : List ReqWord) :
    streamLevels p (w :: ws) = streamLevels p ws := by
  simp [streamLevels, h]

theorem streamTime_request {w : ReqWord} (h : decode w = .request i) (c : Config) (ws : List ReqWord) :
    streamTime c (w :: ws) = i.minTime c + streamTime c ws := by
  simp [streamTime, h]

theorem streamTime_illegal {w v : ReqWord} (h : decode w = .illegal v) (c : Config) (ws : List ReqWord) :
    streamTime c (w :: ws) = streamTime c ws := by
  simp [streamTime, h]

/-! ### What the request in progress owes, phase by phase -/

theorem inFlight_idle (hp : s.phase = .idle) : s.inFlight = [] := by simp [State.inFlight, hp]

theorem phaseTime_idle (hp : s.phase = .idle) : s.phaseTime = 0 := by simp [State.phaseTime, hp]

/-- The ending depends on what is still in flight and on the levels it leaves, not on the phase. -/
theorem ending_congr (herr : t.err = s.err) (hwaiting : t.waiting = s.waiting) (hrs : t.pin.rs = s.pin.rs)
    (hrw : t.pin.rw = s.pin.rw) (hd : t.pend.getD t.pin.d = s.pend.getD s.pin.d)
    (htransfers : transfers t.trace ++ t.inFlight = transfers s.trace ++ s.inFlight) : t.ending = s.ending := by
  simp only [State.ending, State.endErr, State.owed, State.endLevels, ← List.append_assoc, *]

theorem earliestEnd_congr (hnow : t.now = s.now) (hcfg : t.cfg = s.cfg) (hwaiting : t.waiting = s.waiting)
    (hphase : t.phaseTime = s.phaseTime) : t.earliestEnd = s.earliestEnd := by
  simp only [State.earliestEnd, State.remaining, *]

/-! ### The end of a phase -/

/-- PULSE makes the transfer that was in flight; no other phase end makes one or drops one. -/
theorem PhaseEnd.transfers_inFlight_eq (h : PhaseEnd s t) :
    transfers t.trace ++ t.inFlight = transfers s.trace ++ s.inFlight := by
  cases h with
  | setup hp => simp [State.inFlight, State.pendLines, Pins.lines, hp]
  | pulse hp => simp [State.inFlight, State.pendLines, Pins.lines, hp]
  | settlePending lo hp hl => simp [State.inFlight, State.pendLines, Pins.lines, hp, hl]
  | settleLast hp hl => simp [State.inFlight, State.pendLines, hp, hl]
  | wait hp => simp [State.inFlight, hp]

theorem PhaseEnd.ending_eq (h : PhaseEnd s t) : t.ending = s.ending := by
  refine ending_congr h.err_eq h.waiting_eq ?_ ?_ ?_ h.transfers_inFlight_eq
  · cases h <;> rfl
  · cases h <;> rfl
  · cases h with
    | settlePending lo hp hl => simp [hl]
    | setup | pulse | settleLast | wait => rfl

/-- A phase whose minimum has passed owes only the least time of what follows it. -/
theorem PhaseEnd.phaseTime_eq (h : PhaseEnd s t) (hdue : s.min ≤ s.elapsed) : t.phaseTime = s.phaseTime := by
  have hpast : s.min - s.elapsed = 0 := Nat.sub_eq_zero_of_le hdue
  cases h with
  | setup hp => simp [State.phaseTime, State.pendTime, hp, hpast]
  | pulse hp => simp [State.phaseTime, State.pendTime, hp, hpast]
  | settlePending lo hp hl => simp [State.phaseTime, State.pendTime, strobeTime, hp, hl, hpast]
  | settleLast hp hl => simp [State.phaseTime, State.pendTime, hp, hl, hpast]
  | wait hp => simp [State.phaseTime, hp, hpast]

theorem PhaseEnd.earliestEnd_eq (h : PhaseEnd s t) (hdue : s.min ≤ s.elapsed) : t.earliestEnd = s.earliestEnd :=
  earliestEnd_congr h.now_eq h.cfg_eq h.waiting_eq (h.phaseTime_eq hdue)

/-! ### Acceptance -/

theorem Effect.transfers_trace_eq (h : Effect s i t) : transfers t.trace = transfers s.trace := by
  cases h <;> simp

/-- An accepted request has its transfers in flight (R60). -/
theorem Effect.inFlight_eq (h : Effect s i t) (hp : s.phase = .idle) : t.inFlight = i.lines s.pin.rs s.pin.rw := by
  cases h with
  | byte rs v _ hcore => simp [State.inFlight, State.pendLines, Pins.lines, Instr.lines, hcore]
  | nibble n _ hcore => simp [State.inFlight, State.pendLines, Pins.lines, Instr.lines, hcore]
  | ctrl rs _ hcore => simp [State.inFlight, Instr.lines, hcore, hp]
  | waitZero _ hcore => simp [State.inFlight, Instr.lines, hcore, hp]
  | waitFor ms _ hcore => simp [State.inFlight, Instr.lines, hcore]

theorem Effect.rs_eq (h : Effect s i t) : t.pin.rs = i.rsAfter s.pin.rs := by
  cases h <;> simp [Instr.rsAfter, *]

theorem Effect.rw_eq (h : Effect s i t) : t.pin.rw = i.rwAfter s.pin.rw := by
  cases h <;> simp [Instr.rwAfter, *]

/-- The data lines at the end of an accepted request: those of its pending nibble, or of its only one. -/
theorem Effect.d_eq (h : Effect s i t) : t.pend.getD t.pin.d = i.dAfter (s.pend.getD s.pin.d) := by
  cases h <;> simp [Instr.dAfter, *]

/-- An accepted request takes its least time from now on (R110). -/
theorem Effect.phaseTime_eq (h : Effect s i t) (hp : s.phase = .idle) : t.phaseTime = i.minTime s.cfg := by
  cases h with
  | byte rs v _ hcore => simp [State.phaseTime, State.pendTime, strobeTime, Instr.minTime, hcore]
  | nibble n _ hcore => simp [State.phaseTime, State.pendTime, strobeTime, Instr.minTime, hcore]
  | ctrl rs _ hcore => simp [State.phaseTime, Instr.minTime, hcore, hp]
  | waitZero _ hcore => simp [State.phaseTime, Instr.minTime, waitDuration, hcore, hp]
  | waitFor ms _ hcore => simp [State.phaseTime, Instr.minTime, hcore]

section
variable (hp : s.phase = .idle) (hv : s.reqValid = true)
include hp hv

/-- The ending of a state that is about to accept a word. -/
theorem ending_of_presented : s.ending = ⟨s.err || !isLegal s.reqWord || s.stream.any fun w => !isLegal w,
    transfers s.trace ++ streamLines s.pin.rs s.pin.rw (s.reqWord :: s.stream),
    streamLevels ⟨s.pin.rs, s.pin.rw, s.pend.getD s.pin.d⟩ (s.reqWord :: s.stream)⟩ := by
  simp [State.ending, State.endErr, State.owed, State.endLevels, waiting_of_reqValid hv, inFlight_idle hp, Bool.or_assoc]

theorem earliestEnd_of_presented : s.earliestEnd = s.now + streamTime s.cfg (s.reqWord :: s.stream) := by
  simp [State.earliestEnd, State.remaining, waiting_of_reqValid hv, phaseTime_idle hp]

/-- Accepting a request moves its transfers from the words waiting to those in flight. -/
theorem Effect.ending_eq (h : Effect s.consume i t) (hd : decode s.reqWord = .request i) : t.ending = s.ending := by
  have hwaiting : t.waiting = s.stream := h.waiting_eq.trans (waiting_of_not_reqValid rfl)
  rw [ending_of_presented hp hv, streamLines_request hd, streamLevels_request hd]
  simp [State.ending, State.endErr, State.owed, State.endLevels, hwaiting, h.err_eq, h.transfers_trace_eq,
    h.inFlight_eq (s := s.consume) hp, h.rs_eq, h.rw_eq, h.d_eq, isLegal_of_request hd]

theorem Effect.earliestEnd_eq (h : Effect s.consume i t) (hd : decode s.reqWord = .request i) :
    t.earliestEnd = s.earliestEnd := by
  have hwaiting : t.waiting = s.stream := h.waiting_eq.trans (waiting_of_not_reqValid rfl)
  rw [earliestEnd_of_presented hp hv, streamTime_request hd]
  simp [State.earliestEnd, State.remaining, hwaiting, h.now_eq, h.cfg_eq, h.phaseTime_eq (s := s.consume) hp]

/-- Accepting an illegal word makes the error that it owed, and nothing else (R181). -/
theorem ending_raiseIllegal {w : ReqWord} (hd : decode s.reqWord = .illegal w) :
    (s.consume.raiseIllegal w).ending = s.ending := by
  have hwaiting : (s.consume.raiseIllegal w).waiting = s.stream := waiting_of_not_reqValid rfl
  rw [ending_of_presented hp hv, streamLines_illegal hd, streamLevels_illegal hd]
  simp [State.ending, State.endErr, State.owed, State.endLevels, hwaiting, inFlight_idle (s := s.consume.raiseIllegal w) hp,
    isLegal_of_illegal hd]

theorem earliestEnd_raiseIllegal {w : ReqWord} (hd : decode s.reqWord = .illegal w) :
    (s.consume.raiseIllegal w).earliestEnd = s.earliestEnd := by
  have hwaiting : (s.consume.raiseIllegal w).waiting = s.stream := waiting_of_not_reqValid rfl
  rw [earliestEnd_of_presented hp hv, streamTime_illegal hd]
  simp [State.earliestEnd, State.remaining, hwaiting, phaseTime_idle (s := s.consume.raiseIllegal w) hp]

end

/-! ### The host's moves, the schedule and time -/

@[simp] theorem ending_useMove (s : State) : s.useMove.ending = s.ending := by rw [useMove_eq]; rfl

@[simp] theorem earliestEnd_useMove (s : State) : s.useMove.earliestEnd = s.earliestEnd := by rw [useMove_eq]; rfl

@[simp] theorem ending_present (s : State) : s.present.ending = s.ending :=
  ending_congr (by simp) (by simp) (by simp) (by simp) (by simp) (by simp [State.inFlight, State.pendLines])

@[simp] theorem earliestEnd_present (s : State) : s.present.earliestEnd = s.earliestEnd :=
  earliestEnd_congr (by simp) (by simp) (by simp) (by simp [State.phaseTime, State.pendTime])

@[simp] theorem ending_assertReset (s : State) : s.assertReset.ending = s.ending := rfl

@[simp] theorem earliestEnd_assertReset (s : State) : s.assertReset.earliestEnd = s.earliestEnd := rfl

@[simp] theorem ending_advance (s : State) (δ : Nat) : (s.advance δ).ending = s.ending := rfl

/-- Time that passes counts at most once into the minimum of the phase. -/
theorem phaseTime_le_advance (s : State) (δ : Nat) : s.phaseTime ≤ δ + (s.advance δ).phaseTime := by
  unfold State.phaseTime
  cases hp : s.phase <;> simp [hp, State.pendTime] <;> omega

/-- Time that passes before the minimum of the phase counts whole into it. -/
theorem phaseTime_eq_advance (hp : s.phase ≠ .idle) {δ : Nat} (hδ : s.elapsed + δ ≤ s.min) :
    s.phaseTime = δ + (s.advance δ).phaseTime := by
  unfold State.phaseTime
  cases hp' : s.phase <;> simp [hp', State.pendTime] at hp ⊢ <;> omega

theorem earliestEnd_le_advance (s : State) (δ : Nat) : s.earliestEnd ≤ (s.advance δ).earliestEnd := by
  have hphase := phaseTime_le_advance s δ
  have hwaiting : (s.advance δ).waiting = s.waiting := rfl
  simp only [State.earliestEnd, State.remaining, State.advance_now, State.advance_cfg, hwaiting]
  omega

theorem earliestEnd_advance_of_early (hp : s.phase ≠ .idle) {δ : Nat} (hδ : s.elapsed + δ ≤ s.min) :
    (s.advance δ).earliestEnd = s.earliestEnd := by
  have hphase := phaseTime_eq_advance hp hδ
  have hwaiting : (s.advance δ).waiting = s.waiting := rfl
  simp only [State.earliestEnd, State.remaining, State.advance_now, State.advance_cfg, hwaiting]
  omega

/-! ### Steps and scheduled runs -/

/-- Without a reset every step keeps the ending. -/
theorem step_ending (hr : s.rst = false) (hstep : step s = .next t) : t.ending = s.ending := by
  cases step_cases hstep with
  | reset h => simp [hr] at h
  | pass => simp
  | present => simp
  | assertReset => simp
  | idleStutter => simp
  | accept i _ _ _ hp hv hd he =>
    exact (he.ending_eq (s := s.useMove) (by simpa using hp) (by simpa using hv) (by simpa using hd)).trans (ending_useMove s)
  | illegal w _ _ hp hv hd =>
    exact (ending_raiseIllegal (s := s.useMove) (by simpa using hp) (by simpa using hv) (by simpa using hd)).trans
      (ending_useMove s)
  | endPhase _ _ hp => exact (phaseEnd_endPhase (by simpa using hp)).ending_eq.trans (ending_useMove s)
  | tooEarly => simp

/-- Without a reset no step brings the earliest end nearer. -/
theorem step_earliestEnd (hr : s.rst = false) (hstep : step s = .next t) : s.earliestEnd ≤ t.earliestEnd := by
  rw [← earliestEnd_useMove s]
  cases step_cases hstep with
  | reset h => simp [hr] at h
  | pass => exact earliestEnd_le_advance _ _
  | present => simp
  | assertReset => simp
  | idleStutter => simp
  | accept i _ _ _ hp hv hd he =>
    exact (he.earliestEnd_eq (s := s.useMove) (by simpa using hp) (by simpa using hv) (by simpa using hd)).ge
  | illegal w _ _ hp hv hd =>
    exact (earliestEnd_raiseIllegal (s := s.useMove) (by simpa using hp) (by simpa using hv) (by simpa using hd)).ge
  | endPhase _ _ hp hdue => exact ((phaseEnd_endPhase (by simpa using hp)).earliestEnd_eq (by simpa using hdue)).ge
  | tooEarly => simp

end Sys2Proof.Machine
end

section
/-! Lemmas about runs without a reset (60_exceptions.md R180, R182): what a schedule keeps, what a state with every request done
has come to, and the schedule that performs every request at its earliest. -/

namespace Sys2Proof.Machine

variable {s t u : State} {i : Instr} {m : Move} {ms : List Move}

/-! ### Scheduled runs -/

theorem Effect.host_eq (h : Effect s i t) : t.rst = s.rst ∧ t.sched = s.sched := by cases h <;> exact ⟨rfl, rfl⟩

theorem PhaseEnd.rst_eq (h : PhaseEnd s t) : t.rst = s.rst := by cases h <;> rfl

/-- A scheduled move other than reset leaves reset low and is taken off the schedule. -/
theorem step_takes_move (hr : s.rst = false) (hs : s.sched = m :: ms) (hm : m ≠ .assertReset) (hstep : step s = .next t) :
    t.rst = false ∧ t.sched = ms := by
  have hu : s.useMove.rst = false ∧ s.useMove.sched = ms := ⟨by simpa using hr, by rw [useMove_of_sched hs]⟩
  cases step_cases hstep with
  | reset h => simp [hr] at h
  | pass | idleStutter | illegal | tooEarly => exact hu
  | present => simpa using hu
  | assertReset _ h => exact absurd ((nextMove_of_sched hs).symm.trans h) hm
  | accept _ _ _ _ _ _ _ he => simpa [he.host_eq] using hu
  | endPhase _ _ hp =>
    have hend : PhaseEnd s.useMove s.useMove.endPhase := phaseEnd_endPhase (by simpa using hp)
    simpa [hend.rst_eq, hend.host_eq] using hu

/-- What every step without a reset keeps, a run of scheduled moves other than reset keeps. -/
theorem scheduled_run_keeps {P : State → Prop} (hkeeps : ∀ u v, P u → u.rst = false → step u = .next v → P v) {k : Nat}
    (hP : P s) (hr : s.rst = false) (hk : k ≤ s.sched.length) (hms : ∀ m ∈ s.sched, m ≠ .assertReset)
    (hrun : run k s = .next t) : P t := by
  induction k generalizing s with
  | zero => cases hrun; exact hP
  | succ k ih =>
    obtain ⟨u, hstep⟩ := exists_step s
    rw [run_succ hstep] at hrun
    cases hs : s.sched with
    | nil => simp [hs] at hk
    | cons m ms =>
      rw [hs, List.forall_mem_cons] at hms
      obtain ⟨hru, hsu⟩ := step_takes_move hr hs hms.1 hstep
      exact ih (hkeeps s u hP hr hstep) hru (by simpa [hs, hsu] using hk) (by simpa [hsu] using hms.2) hrun

/-- With every request done, a state stands at its ending. -/
theorem ending_of_done (hi : Inv s) (hdone : s.done) : s.ending = ⟨s.err, transfers s.trace, s.pin.lines⟩ := by
  obtain ⟨hp, hwaiting⟩ := hdone
  simp [State.ending, State.endErr, State.owed, State.endLevels, hwaiting, inFlight_idle hp, hi.pend_none (.inl hp),
    streamLines, streamLevels, Pins.lines]

theorem earliestEnd_of_done (hdone : s.done) : s.earliestEnd = s.now := by
  obtain ⟨hp, hwaiting⟩ := hdone
  simp [State.earliestEnd, State.remaining, hwaiting, phaseTime_idle hp, streamTime]

/-- The invariant of the fields does not speak of the schedule. -/
theorem Inv.with_sched (hi : Inv s) (ms : List Move) : Inv { s with sched := ms } :=
  hi.congr rfl rfl rfl rfl rfl rfl

/-- The levels of all lines are those of RS, RW and D7..D4, and that of E. -/
theorem pins_eq_iff {p q : Pins} : p = q ↔ p.lines = q.lines ∧ p.e = q.e := by
  cases p
  cases q
  simp [Pins.lines]
  tauto

theorem pin_eq_of_lines (hs : Inv s) (ht : Inv t) (hps : s.phase = .idle) (hpt : t.phase = .idle)
    (h : s.pin.lines = t.pin.lines) : s.pin = t.pin := by
  have he : s.pin.e = t.pin.e := (hs.e_low (by simp [hps])).trans (ht.e_low (by simp [hpt])).symm
  exact pins_eq_iff.2 ⟨h, he⟩

/-! ### What a move leads to -/

/-- From `s` the move `m` leads to `u`, whatever moves follow it. -/
def State.Leads (s : State) (m : Move) (u : State) : Prop :=
  ∀ ms, step { s with sched := m :: ms } = .next { u with sched := ms }

theorem leads_pass (hr : s.rst = false) (k : Nat) : s.Leads (.pass k) (s.advance (k + 1)) :=
  fun ms => step_pass (s := { s with sched := .pass k :: ms }) hr rfl

/-- The host presents the same word whatever the moves to come. -/
theorem present_of_sched (s : State) (ms : List Move) :
    ({ s with sched := ms } : State).present = { s.present with sched := ms } := by
  cases hv : s.reqValid <;> cases hs : s.stream <;> simp [State.present, hv, hs]

theorem leads_present (hr : s.rst = false) : s.Leads .present s.present :=
  fun ms => (step_of_sched (s := { s with sched := .present :: ms }) hr rfl).trans (congrArg _ (present_of_sched s ms))

/-- A phase ends in the same way whatever the moves to come. -/
theorem PhaseEnd.of_sched (h : PhaseEnd s t) (ms : List Move) : PhaseEnd { s with sched := ms } { t with sched := ms } := by
  obtain ⟨hvalid, hstream, -⟩ := h.host_eq
  obtain ⟨-, hword⟩ := h.request_eq
  rw [hvalid, hword, hstream]
  exact h.of_host s.reqValid s.reqWord s.stream ms

theorem leads_phaseEnd (hr : s.rst = false) (hdue : s.min ≤ s.elapsed) (h : PhaseEnd s t) : s.Leads .act t :=
  fun ms => step_phaseEnd (s := { s with sched := .act :: ms }) hr rfl hdue (h.of_sched ms)

/-- A request has the same effect whatever the moves to come. -/
theorem Effect.of_sched (h : Effect s i t) (ms : List Move) : Effect { s with sched := ms } i { t with sched := ms } := by
  cases h with
  | byte rs v _ h => exact .byte rs v i h
  | nibble n _ h => exact .nibble n i h
  | ctrl rs _ h => exact .ctrl rs i h
  | waitZero _ h => exact .waitZero i h
  | waitFor ms _ h h0 => exact .waitFor ms i h h0

/-- In IDLE an instruction answers its effect. -/
theorem Effect.exec_eq (h : Effect s i t) (hp : s.phase = .idle) : exec i s = .next t := by
  cases h with
  | byte rs v _ h => rw [exec_of_core_sendByte h, accept_idle _ hp]
  | nibble n _ h => rw [exec_of_core_sendNibble h, accept_idle _ hp]
  | ctrl rs _ h => rw [← exec_core, h, exec_setCtrl, accept_idle _ hp]
  | waitZero _ h => rw [← exec_core, h, exec_wait_zero]
  | waitFor ms _ h h0 => rw [← exec_core, h, exec_wait_idle hp h0]

theorem leads_request (hr : s.rst = false) (hp : s.phase = .idle) (hv : s.reqValid = true)
    (hd : decode s.reqWord = .request i) (he : Effect s.consume i t) : s.Leads .act t :=
  fun ms => (step_request (s := { s with sched := .act :: ms }) hr rfl hp hv hd).trans
    ((he.of_sched ms).exec_eq hp)

theorem leads_illegal {w : ReqWord} (hr : s.rst = false) (hp : s.phase = .idle) (hv : s.reqValid = true)
    (hd : decode s.reqWord = .illegal w) : s.Leads .act (s.consume.raiseIllegal w) :=
  fun ms => step_illegal (s := { s with sched := .act :: ms }) hr rfl hp hv hd

/-! ### Every stream completes -/

/-- How many phases end before the request in progress is done. -/
def State.phaseEnds (s : State) : Nat :=
  match s.phase with
  | .idle => 0
  | .setup => 3 + 3 * s.pend.isSome.toNat
  | .pulse => 2 + 3 * s.pend.isSome.toNat
  | .settle => 1 + 3 * s.pend.isSome.toNat
  | .wait => 1

/-- A bound on NSER's own moves that are left: for each word its acceptance and at most six ends of phases. -/
def State.movesLeft (s : State) : Nat := 7 * s.waiting.length + s.phaseEnds

theorem phaseEnds_le (s : State) : s.phaseEnds ≤ 6 := by
  have hpend : s.pend.isSome.toNat ≤ 1 := Bool.toNat_le _
  unfold State.phaseEnds
  split <;> omega

theorem PhaseEnd.movesLeft_lt (h : PhaseEnd s t) : t.movesLeft < s.movesLeft := by
  have hends : t.phaseEnds < s.phaseEnds := by
    cases h with
    | setup hp => simp [State.phaseEnds, hp]
    | pulse hp => simp [State.phaseEnds, hp]
    | settlePending lo hp hl => simp [State.phaseEnds, hp, hl]
    | settleLast hp => simp [State.phaseEnds, hp]
    | wait hp => simp [State.phaseEnds, hp]
  simpa [State.movesLeft, h.waiting_eq] using hends

@[simp] theorem movesLeft_present (s : State) : s.present.movesLeft = s.movesLeft := by
  simp [State.movesLeft, State.phaseEnds]

/-- The acceptance of a word uses up its acceptance and leaves its phases. -/
theorem movesLeft_lt_of_taken (hv : s.reqValid = true) (h : t.waiting = s.stream) : t.movesLeft < s.movesLeft := by
  have hends := phaseEnds_le t
  simp only [State.movesLeft, h, waiting_of_reqValid hv, List.length_cons]
  omega

/-- Some schedule without a reset performs every request of `s`, and is done at the earliest end. -/
def State.CompletesEarly (s : State) : Prop :=
  ∃ ms t, (∀ m ∈ ms, m ≠ .assertReset) ∧ run ms.length { s with sched := ms } = .next t ∧ t.done ∧ t.now = s.earliestEnd

theorem completesEarly_of_done (hdone : s.done) : s.CompletesEarly :=
  ⟨[], { s with sched := [] }, by simp, rfl, hdone, (earliestEnd_of_done hdone).symm⟩

theorem completesEarly_of_leads (h : s.Leads m u) (hm : m ≠ .assertReset) (hend : u.earliestEnd = s.earliestEnd)
    (hu : u.CompletesEarly) : s.CompletesEarly := by
  obtain ⟨ms, t, hms, hrun, hdone, hnow⟩ := hu
  exact ⟨m :: ms, t, List.forall_mem_cons.2 ⟨hm, hms⟩, (run_succ (h ms)).trans hrun, hdone, hnow.trans hend⟩

section
variable (hr : s.rst = false)
  (ih : ∀ u : State, u.rst = false → u.movesLeft < s.movesLeft → u.CompletesEarly)
include hr ih

theorem completesEarly_of_due (hp : s.phase ≠ .idle) (hdue : s.min ≤ s.elapsed) : s.CompletesEarly := by
  have hend : PhaseEnd s s.endPhase := phaseEnd_endPhase hp
  exact completesEarly_of_leads (leads_phaseEnd hr hdue hend) (by simp) (hend.earliestEnd_eq hdue)
    (ih _ (hend.rst_eq.trans hr) hend.movesLeft_lt)

/-- A phase ends as soon as its minimum has passed. -/
theorem completesEarly_of_busy (hp : s.phase ≠ .idle) : s.CompletesEarly := by
  by_cases hdue : s.min ≤ s.elapsed
  · exact completesEarly_of_due hr ih hp hdue
  · refine completesEarly_of_leads (leads_pass hr (s.min - s.elapsed - 1)) (by simp)
      (earliestEnd_advance_of_early hp (by omega)) (completesEarly_of_due hr ih hp ?_)
    simp [hp]
    omega

theorem completesEarly_of_presented (hp : s.phase = .idle) (hv : s.reqValid = true) : s.CompletesEarly := by
  cases hd : decode s.reqWord with
  | request i =>
    obtain ⟨t, hexec⟩ := exists_exec i s.consume
    have he : Effect s.consume i t := exec_effect hp hexec
    exact completesEarly_of_leads (leads_request hr hp hv hd he) (by simp) (he.earliestEnd_eq hp hv hd)
      (ih t (he.host_eq.1.trans hr) (movesLeft_lt_of_taken hv (he.waiting_eq.trans (waiting_of_not_reqValid rfl))))
  | illegal w =>
    exact completesEarly_of_leads (leads_illegal hr hp hv hd) (by simp) (earliestEnd_raiseIllegal hp hv hd)
      (ih _ hr (movesLeft_lt_of_taken hv (waiting_of_not_reqValid rfl)))

/-- In IDLE the next word is presented and accepted at once. -/
theorem completesEarly_of_idle (hp : s.phase = .idle) : s.CompletesEarly := by
  cases hv : s.reqValid with
  | true => exact completesEarly_of_presented hr ih hp hv
  | false =>
    cases hs : s.stream with
    | nil => exact completesEarly_of_done ⟨hp, (waiting_of_not_reqValid hv).trans hs⟩
    | cons w ws =>
      have hpresented : s.present.reqValid = true := by simp [State.present, hv, hs]
      exact completesEarly_of_leads (leads_present hr) (by simp) (earliestEnd_present s)
        (completesEarly_of_presented (by simpa using hr) (by simpa using ih) (by simpa using hp) hpresented)

end

/-- Every stream of words can be performed, in exactly its least time (R180). -/
theorem completesEarly (hr : s.rst = false) : s.CompletesEarly := by
  induction hn : s.movesLeft using Nat.strong_induction_on generalizing s with
  | h n ih =>
    subst hn
    by_cases hp : s.phase = .idle
    · exact completesEarly_of_idle hr (fun u hu hlt => ih _ hlt hu rfl) hp
    · exact completesEarly_of_busy hr (fun u hu hlt => ih _ hlt hu rfl) hp

end Sys2Proof.Machine
end

section
/-! The statements about what the requests come to (60_exceptions.md R182), settled from the lemmas above. -/

namespace Sys2Proof.Machine

/-- Settles O47: the error, the transfers and the levels are those of the ending, which a step keeps. -/
theorem stepKeepsWhatTheRequestsOwe : Obligations.StepKeepsWhatTheRequestsOwe := by
  intro s t _ hr hstep
  have hending := step_ending hr hstep
  exact ⟨congrArg Ending.err hending, fun _ => ⟨congrArg Ending.transfers hending, congrArg Ending.levels hending⟩⟩

/-- Settles O48: the earliest end is now plus the least time still needed. -/
theorem stepNeverShortensTheMinimum : Obligations.StepNeverShortensTheMinimum :=
  fun _ _ _ hr _ hstep => step_earliestEnd hr hstep

/-- Settles O49: the run keeps the ending and never brings its end nearer, and a state with every request done has come to it. -/
theorem completedRunsMakeExactlyTheOwedTransfers : Obligations.CompletedRunsMakeExactlyTheOwedTransfers := by
  intro k s t hi hr hk hms hrun hdone
  obtain ⟨hending, htime⟩ := scheduled_run_keeps (P := fun u => u.ending = s.ending ∧ s.earliestEnd ≤ u.earliestEnd)
    (fun u v ⟨hending, htime⟩ hru hstep => ⟨(step_ending hru hstep).trans hending, htime.trans (step_earliestEnd hru hstep)⟩)
    ⟨rfl, le_rfl⟩ hr hk hms hrun
  rw [ending_of_done (run_keeps stepKeepsTheFieldInvariant hi hrun) hdone] at hending
  rw [earliestEnd_of_done hdone] at htime
  exact ⟨congrArg Ending.err hending, fun _ => ⟨congrArg Ending.transfers hending, congrArg Ending.levels hending, htime⟩⟩

/-- Settles O50: by O49 both schedules come to what the requests owe. -/
theorem transfersDoNotDependOnDurations : Obligations.TransfersDoNotDependOnDurations := by
  intro k k' s t t' ms ms' hi hr hk hk' hms hms' hrun hrun' hdone hdone'
  obtain ⟨herr, hrest⟩ :=
    completedRunsMakeExactlyTheOwedTransfers k _ t (hi.with_sched ms) hr hk hms hrun hdone
  obtain ⟨herr', hrest'⟩ :=
    completedRunsMakeExactlyTheOwedTransfers k' _ t' (hi.with_sched ms') hr hk' hms' hrun' hdone'
  have hsame : t.err = t'.err := herr.trans herr'.symm
  refine ⟨hsame, fun hnone => ?_⟩
  obtain ⟨htransfers, hlines, -⟩ := hrest hnone
  obtain ⟨htransfers', hlines', -⟩ := hrest' (hsame.symm.trans hnone)
  have hinv : Inv t := run_keeps stepKeepsTheFieldInvariant (hi.with_sched ms) hrun
  have hinv' : Inv t' := run_keeps stepKeepsTheFieldInvariant (hi.with_sched ms') hrun'
  exact ⟨htransfers.trans htransfers'.symm,
    pin_eq_of_lines hinv hinv' hdone.1 hdone'.1 (hlines.trans hlines'.symm)⟩

/-- Settles O51: the requests can be done at their earliest end, and by O49 that run makes what they owe. -/
theorem everyStreamCanComplete : Obligations.EveryStreamCanComplete := by
  intro s hi hr hnone
  obtain ⟨ms, t, hms, hrun, hdone, hnow⟩ := completesEarly hr
  obtain ⟨herr, hrest⟩ := completedRunsMakeExactlyTheOwedTransfers _ _ t (hi.with_sched ms) hr le_rfl hms hrun hdone
  have hok : t.noError := herr.trans hnone
  exact ⟨ms, t, hms, hrun, hdone, hok, hnow, (hrest hok).1⟩

end Sys2Proof.Machine
end

section
/-! Lemmas about reset and the initialization sequence (70_reset_and_hazards.md R200 to R202, R210 to R214, R230): the step that
takes a reset, the invariants of a state that nothing has happened in, and what the initialization words come to. -/

namespace Sys2Proof

variable (c : Config)

/-! ### The least time of a request (R110, R230) -/

theorem minTime_sendByte (rs : Bool) (v : Byte) : (Instr.sendByte rs v).minTime c = 2 * Machine.strobeTime c :=
  (Nat.two_mul _).symm

theorem minTime_sendNibble (n : Nibble) : (Instr.sendNibble n).minTime c = Machine.strobeTime c := rfl

theorem minTime_setCtrl (rs : Bool) : (Instr.setCtrl rs).minTime c = 0 := rfl

theorem minTime_wait (ms : WaitCount) : (Instr.wait ms).minTime c = ms.toNat * c.waitUnit := rfl

/-- A request takes the time of the request that carries it (R82, R83). -/
theorem minTime_core (i : Instr) : i.core.minTime c = i.minTime c := by
  cases i <;> rfl

theorem minTime_named (i : Instr) : i.named.minTime c = i.minTime c := by
  rw [← minTime_core, core_named, minTime_core]

theorem isLegal_encode (i : Instr) : isLegal (encode i) = true :=
  isLegal_of_request (decode_request (decodeCore_encode i))

namespace Machine

theorem strobeTime_default : strobeTime Config.default = 40041000 := rfl

/-- The words of instructions take the least times of the instructions, added up. -/
theorem streamTime_words (is : List Instr) : streamTime c (words is) = (is.map fun i => i.minTime c).sum := by
  induction is with
  | nil => rfl
  | cons i is ih =>
    rw [List.map_cons, List.sum_cons, ← ih, ← minTime_core, ← minTime_named]
    exact streamTime_request (decode_request (decodeCore_encode i)) c (words is)

theorem any_illegal_words (is : List Instr) : ((words is).any fun w => !isLegal w) = false := by
  simp [words, isLegal_encode]

/-! ### The initialization sequence (R210) -/

/-- The 16 transfers of the initialization: four raw nibbles, then six bytes, all under RS = 0 whatever RS was (R213). -/
theorem streamLines_initStream : ∀ rs rw : Bool, streamLines rs rw (words initStream) =
    ([0x3, 0x3, 0x3, 0x2, 0x2, 0x8, 0x0, 0x8, 0x0, 0x1, 0x0, 0x6, 0x0, 0xF, 0x0, 0x2] : List Nibble).map
      fun n => ⟨false, false, n⟩ := by
  decide

/-- The last byte of the initialization is Return Home, 0x02: its low nibble stays on the data lines (R213). -/
theorem streamLevels_initStream (p : Lines) : streamLevels p (words initStream) = ⟨false, false, 0x2⟩ := rfl

/-- The initialization waits 500 units at first and 82 units between its 4 raw nibbles and 6 bytes (R214). -/
theorem streamTime_initStream : streamTime c (words initStream) =
    500 * c.waitUnit + 4 * strobeTime c + 6 * (2 * strobeTime c) + (8 * 10 + 2) * c.waitUnit := by
  rw [streamTime_words]
  simp only [initStream, returnHome, List.cons_append, List.nil_append, List.map_cons, List.map_nil, List.sum_cons,
    List.sum_nil, Instr.minTime, Instr.core, waitDuration, BitVec.reduceToNat]
  omega

/-! ### The step that takes a reset -/

variable {s t : State}

theorem step_reset (hr : s.rst = true) : step s = .next s.takeReset := if_pos hr

theorem takeReset_events (s : State) : s.takeReset.events =
    s.events ++ (if s.phase = .pulse then [.cutPulse s.pin.rs s.pin.rw s.pin.d s.tRise s.now] else []) ++ [.reset s.now] := by
  simp only [State.events, takeReset_eq, List.filter_append, filter_changeTo, List.append_nil]
  split <;> rfl

/-- A reset makes no transfer: an E pulse that it cuts short is none (R201). -/
theorem transfers_takeReset (s : State) : transfers s.takeReset.trace = transfers s.trace := by
  rw [takeReset_eq]
  simp only [transfers_append, transfers_changeTo, transfers_reset, List.append_nil]
  split <;> simp

/-! ### Nothing has happened yet -/

/-- Before the first entry of the trace, IDLE owes no timing. -/
theorem timingInv_of_empty_trace (hp : s.phase = .idle) (hel : s.elapsed = 0) (htrace : s.trace = []) : TimingInv s where
  elapsedLeNow := by simp [hel]
  riseInPulse := by simp [hp]
  pulses := by simp [PulsesLongEnough, htrace]
  spaced := by simp [TransfersSpaced, htrace]
  spacedNow := by simp [htrace]
  resetsPast := by simp [htrace]

/-- Before the first entry of the trace, low lines in IDLE stand at the recorded levels. -/
theorem levelInv_of_empty_trace (hp : s.phase = .idle) (hpin : s.pin = Pins.low) (htrace : s.trace = []) : LevelInv s :=
  levelInv_of_no_strobe (.inl hp) (by simp [htrace, hpin]) (by simp [LevelsHeld, htrace])

end Machine

end Sys2Proof
end

section
/-! The statements about reset and the initialization (70_reset_and_hazards.md), settled from the lemmas above. -/

namespace Sys2Proof.Machine

/-- Settles O52: by O49 the run makes what the initialization words owe. -/
theorem initializationEndsInItsState : Obligations.InitializationEndsInItsState := by
  intro k s t hi hr hp hok hv hstream hk hms hrun hdone
  have hwaiting : s.waiting = words initStream := (waiting_of_not_reqValid hv).trans hstream
  have herr₀ : s.err = false := hok
  have hendErr : s.endErr = false := by rw [State.endErr, herr₀, hwaiting, any_illegal_words, Bool.or_self]
  obtain ⟨herr, hrest⟩ := completedRunsMakeExactlyTheOwedTransfers k s t hi hr hk hms hrun hdone
  have hnone : t.noError := herr.trans hendErr
  obtain ⟨htransfers, hlines, htime⟩ := hrest hnone
  rw [State.owed, inFlight_idle hp, List.nil_append, hwaiting, streamLines_initStream] at htransfers
  rw [State.endLevels, hwaiting, streamLevels_initStream] at hlines
  rw [State.remaining, phaseTime_idle hp, Nat.zero_add, hwaiting, streamTime_initStream] at htime
  have hit : Inv t := run_keeps stepKeepsTheFieldInvariant hi hrun
  have hidle : t.phase = .idle := hdone.1
  have hdefault (hcfg : s.cfg = Config.default) : s.now + 1222656000 ≤ t.now := by
    rw [hcfg] at htime
    exact htime
  exact ⟨congrArg Lines.rs hlines, hit.rwLow, hit.e_low (by simp [hidle]), congrArg Lines.n hlines, hidle,
    hit.pend_none (.inl hidle), hnone, htransfers, htime, hdefault⟩

/-- Settles O10: the fields of the power-on state. -/
theorem powerOnIsTheResetState : Obligations.PowerOnIsTheResetState := ⟨rfl, rfl, rfl, rfl, rfl, rfl, rfl, rfl⟩

/-- Settles O11: the step takes the reset, and the next one finds NSER in IDLE with a word presented. -/
theorem resetSetsEveryField : Obligations.ResetSetsEveryField := by
  intro s hr
  have hevents := takeReset_events s
  refine ⟨s.takeReset, step_reset hr, ?_⟩
  rw [takeReset_eq] at hevents ⊢
  exact ⟨rfl, rfl, rfl, rfl, rfl, rfl, rfl, rfl, rfl, rfl, rfl, rfl, hevents, rfl,
    fun w i ms hd => step_request rfl rfl rfl rfl hd⟩

/-- Settles O12: after reset NSER is IDLE, where nothing is in flight, and what the host presents stays. -/
theorem resetDropsTheRequestInProgress : Obligations.ResetDropsTheRequestInProgress := by
  intro s t hr hstep
  obtain rfl : s.takeReset = t := by simpa [step_reset hr] using hstep
  have htransfers := transfers_takeReset s
  rw [takeReset_eq] at htransfers ⊢
  exact ⟨inFlight_idle rfl, rfl, rfl, htransfers, rfl, rfl, rfl, rfl, rfl, rfl, rfl⟩

/-- Settles O41: the power-on state is IDLE with low lines and an empty trace. -/
theorem invariantsHoldAtReset : Obligations.InvariantsHoldAtReset :=
  ⟨inv_of_idle rfl rfl rfl rfl rfl rfl, timingInv_of_empty_trace rfl rfl rfl, levelInv_of_empty_trace rfl rfl rfl⟩

/-- Settles O58: two strobes, one, none, and the count of the wait. -/
theorem minimumDurationsAtTheDefaults : Obligations.MinimumDurationsAtTheDefaults :=
  ⟨fun n => (minTime_sendNibble _ n).trans strobeTime_default,
    fun rs v => (minTime_sendByte _ rs v).trans (congrArg (2 * ·) strobeTime_default),
    minTime_setCtrl Config.default, minTime_wait Config.default⟩

end Sys2Proof.Machine
end
